-- ==== Sys2Proof/Word.lean ====
section
/-! DEFINITION. The bit patterns the spec treats as bits (spec/00_scope.md R11): bytes and 16-bit words. -/

namespace Sys2Proof

/-- 8 bits: a segment bitmap (R88), a digit-select mask (R89), the operand of `SHIFT_BYTE` (R131). -/
abbrev Byte := BitVec 8

/-- 16 bits: `value` (R21), a frame word (R86), the reference load's `SR` and `OUT` (R141). -/
abbrev Word16 := BitVec 16

end Sys2Proof
end

