-- ==== Sys2Proof/Config.lean ====
section
/-! DEFINITION. The implementation parameters (spec/00_scope.md R8): those the design fixes, and those the platform gives,
with the constraint under which the spec gives the block a meaning. -/

namespace Sys2Proof

/-- `DRIVER_NUM`, the block's identifier in the host's dispatch table (R8, R80). -/
def driverNum : Nat := 0xB0000000

/-- `REFRESH_DIV` (R8, R155): "the design's fixed brightness setting". -/
def refreshDiv : Nat := 8000

/-- The configurations the spec gives a meaning: `W_WORD >= 32` (R8, D3) and `1 <= PERIOD < 2^W_TICK` with
`PERIOD = FREQ div 8000` (R155, R248, D5). -/
abbrev Config.Admissible (wTick wWord freq : Nat) : Prop :=
  32 ≤ wWord ∧ 1 ≤ freq / refreshDiv ∧ freq / refreshDiv < 2 ^ wTick

/-- The platform's parameters. An inadmissible configuration cannot be built (R248: "The model refuses both
configurations"). DESIGN CHOICE (log 3). -/
structure Config where
  /-- `W_TICK`, width of a Tick. -/
  wTick : Nat
  /-- `W_WORD`, width of `cmd_num`, `data1`, `data2`. -/
  wWord : Nat
  /-- `FREQ`, alarm ticks per second. -/
  freq : Nat
  admissible : Config.Admissible wTick wWord freq
  deriving DecidableEq, Repr

/-- The configuration with these parameters, or none where the spec refuses them (R248). -/
def Config.mk? (wTick wWord freq : Nat) : Option Config :=
  if h : Config.Admissible wTick wWord freq then some ⟨wTick, wWord, freq, h⟩ else none

/-- The configuration of `State.reset`: the spec's defaults `W_TICK = 32`, `W_WORD = 32` (R8); `FREQ = 16000` is a
DESIGN CHOICE (log 4). -/
def Config.default : Config := ⟨32, 32, 16000, by decide⟩

end Sys2Proof
end

