-- ==== Sys2Proof/Syntax.lean ====
section
/-! DEFINITION. The operations of the block (spec/opcode_table.json, one constructor per row), and the form in which the
three agents present them: the command tuple (spec/30_encoding.md R81), the two events without an encoding (R97), and the
internal operations by their textual names (R95, R96, R98). -/

namespace Sys2Proof

/-- The three output pins (spec/10_state.md R24). -/
inductive Pin
  | latch
  | clock
  | data
  deriving DecidableEq, Repr

/-- The arguments of a command beside `cmd_num` (R81). `data1` and `data2` are `W_WORD`-bit numbers; `app_id` is opaque
and ignored (R197), held as a number (log 7). -/
structure CmdArgs where
  data1 : Nat
  data2 : Nat
  appId : Nat
  deriving DecidableEq, Repr

/-- The rows of spec/opcode_table.json. -/
inductive Instr
  /-- `PROBE`, command 0 (R192). -/
  | probe (args : CmdArgs)
  /-- `ENABLE`, command 1 (R193). -/
  | enable (args : CmdArgs)
  /-- `DISABLE`, command 2 (R194). -/
  | disable (args : CmdArgs)
  /-- `SETVALUE`, command 3 (R195). -/
  | setValue (args : CmdArgs)
  /-- `UNSUPPORTED`, every other command number (R196). -/
  | unsupported (cmdNum : Nat) (args : CmdArgs)
  /-- `FIRED`, the alarm callback (R162). -/
  | fired
  /-- `TICK`, the advance of the alarm counter (R156). -/
  | tick
  /-- `ENCODE(N)` (R110). -/
  | encodeDigits (n : Word16)
  /-- `SHIFT_BYTE(v)` (R131). -/
  | shiftByte (v : Byte)
  /-- `EMIT_FRAME(seg, sel)` (R132). -/
  | emitFrame (seg sel : Byte)
  /-- `SCAN` (R133). -/
  | scan
  /-- `BLANK_FRAME` (R134). -/
  | blankFrame
  /-- `do_enable` (R159). -/
  | doEnable
  /-- `do_disable` (R160). -/
  | doDisable
  /-- `do_set_value(N)` (R161). -/
  | doSetValue (n : Word16)
  /-- `PinOp(p, l)` (R130). -/
  | pinOp (p : Pin) (l : Bool)
  /-- The alarm call `now()` (R151). -/
  | alarmNow
  /-- The alarm call `set_alarm(t)` (R152). -/
  | setAlarm (t : Nat)
  /-- The alarm call `enable()` (R153). -/
  | alarmEnable
  /-- The alarm call `disable()` (R154). -/
  | alarmDisable
  deriving DecidableEq, Repr

/-- The internal operations by name; nothing encodes them (R97), the spec's own text names them (R96, R98).
DESIGN CHOICE (log 8). -/
inductive InternalOp
  | encodeDigits
  | shiftByte
  | emitFrame
  | scan
  | doEnable
  | doDisable
  | doSetValue
  /-- `L0 L1 C0 C1 D0 D1` (R98). -/
  | pinOp (p : Pin) (l : Bool)
  | alarmNow
  | setAlarm
  | alarmEnable
  | alarmDisable
  deriving DecidableEq, Repr

/-- Where an input arrives: who calls (R7), not a bit pattern, tells an event from a command (R97). -/
inductive Port
  /-- The host's `command` call on this driver number (R53, R80, R190). -/
  | syscall (driver : Nat)
  /-- The alarm's call of `fired()` (R97, R214). -/
  | callback
  /-- One unit of the alarm's counter passes (R97, R156). -/
  | counter
  /-- A 16-bit frame word (R86), as the table's rows `EMIT_FRAME` and `BLANK_FRAME` give it. DESIGN CHOICE (log 9). -/
  | frame
  /-- An internal operation called by name (R96). DESIGN CHOICE (log 8). -/
  | internal (op : InternalOp)
  deriving DecidableEq, Repr

/-- One input: its port and the numbers that come with it. For a command the tuple
`(cmd_num, data1, data2, app_id)` (R81); the spec gives no layout of the tuple in memory and none is added (log 7). -/
structure Input where
  port : Port
  words : List Nat
  deriving DecidableEq, Repr

end Sys2Proof
end

