-- ==== Sys2Proof/WellFormed.lean ====
section
/-! DEFINITION. Operand ranges: which terms of `Instr` stand for an operation of the spec, under a configuration. -/

namespace Sys2Proof

/-- `data1` and `data2` are `W_WORD`-bit numbers (spec/30_encoding.md R81); `app_id` is opaque. -/
def CmdArgs.wellFormed (c : Config) (a : CmdArgs) : Bool :=
  decide (a.data1 < 2 ^ c.wWord) && decide (a.data2 < 2 ^ c.wWord)

/-- The operand ranges of R81 and R83 (commands), R110 and R113 (`ENCODE`), R161 (`do_set_value`), R152 (`set_alarm`). -/
def Instr.wellFormed (c : Config) : Instr → Bool
  | .probe a => a.wellFormed c
  | .enable a => a.wellFormed c
  | .disable a => a.wellFormed c
  | .setValue a => a.wellFormed c
  | .unsupported k a => decide (3 < k) && decide (k < 2 ^ c.wWord) && a.wellFormed c
  | .fired => true
  | .tick => true
  | .encodeDigits n => decide (n.toNat ≤ 9999)
  | .shiftByte _ => true
  | .emitFrame _ _ => true
  | .scan => true
  | .blankFrame => true
  | .doEnable => true
  | .doDisable => true
  | .doSetValue n => decide (n.toNat ≤ 9999)
  | .pinOp _ _ => true
  | .alarmNow => true
  | .setAlarm t => decide (t < 2 ^ c.wTick)
  | .alarmEnable => true
  | .alarmDisable => true

end Sys2Proof
end

