-- ==== Sys2Proof/Decode.lean ====
section
/-! DEFINITION. Decoding an input to an operation (spec/43_command_surface.md R191 for commands), total, rejecting by name;
after it the encoder, and the table's numbering of a command's bits. -/

namespace Sys2Proof

/-- Why an input is no operation of the block. Safe: the run stops. -/
inductive DecodeError
  /-- The command names another driver, so it does not reach this block (R53, R80). -/
  | otherDriver
  /-- The input does not carry the operation's operands, no more and no fewer. -/
  | wrongOperandCount
  /-- An operand is not a number of its field's width (R81, R131, R132, R152). -/
  | operandTooWide
  /-- `ENCODE` or `do_set_value` with `N > 9999` (R110, R113, R161). -/
  | valueOutOfDomain
  deriving DecidableEq, Repr

/-- The dispatch of R191: `cmd_num` is compared as a whole number (R83). -/
def dispatchCommand (cmdNum : Nat) (a : CmdArgs) : Instr :=
  if cmdNum = 0 then .probe a
  else if cmdNum = 1 then .enable a
  else if cmdNum = 2 then .disable a
  else if cmdNum = 3 then .setValue a
  else .unsupported cmdNum a

/-- The command tuple (R81): four numbers, the first three of `W_WORD` bits. -/
def decodeCommand (c : Config) : List Nat → Except DecodeError Instr
  | [cmdNum, data1, data2, appId] =>
    if cmdNum < 2 ^ c.wWord ∧ data1 < 2 ^ c.wWord ∧ data2 < 2 ^ c.wWord then
      .ok (dispatchCommand cmdNum ⟨data1, data2, appId⟩)
    else .error .operandTooWide
  | _ => .error .wrongOperandCount

/-- An operation without operands. -/
def decodeBare (i : Instr) : List Nat → Except DecodeError Instr
  | [] => .ok i
  | _ => .error .wrongOperandCount

/-- A frame word `{seg, sel}` (R86); `0xFFF1` is `BLANK_FRAME`'s own pattern in the table (R134). -/
def decodeFrame : List Nat → Except DecodeError Instr
  | [f] =>
    if f = 0xFFF1 then .ok .blankFrame
    else if f < 2 ^ 16 then .ok (.emitFrame (BitVec.ofNat 8 (f / 256)) (BitVec.ofNat 8 (f % 256)))
    else .error .operandTooWide
  | _ => .error .wrongOperandCount

/-- An operation on a displayed number, `0 <= N <= 9999` (R110, R161). -/
def decodeNumber (op : Word16 → Instr) : List Nat → Except DecodeError Instr
  | [n] => if n ≤ 9999 then .ok (op (BitVec.ofNat 16 n)) else .error .valueOutOfDomain
  | _ => .error .wrongOperandCount

/-- `SHIFT_BYTE v`, `v` of 8 bits (R131). -/
def decodeShiftByte : List Nat → Except DecodeError Instr
  | [v] => if v < 2 ^ 8 then .ok (.shiftByte (BitVec.ofNat 8 v)) else .error .operandTooWide
  | _ => .error .wrongOperandCount

/-- `EMIT_FRAME seg, sel`, 8 bits each (R132). -/
def decodeEmitFrame : List Nat → Except DecodeError Instr
  | [seg, sel] =>
    if seg < 2 ^ 8 ∧ sel < 2 ^ 8 then .ok (.emitFrame (BitVec.ofNat 8 seg) (BitVec.ofNat 8 sel))
    else .error .operandTooWide
  | _ => .error .wrongOperandCount

/-- `set_alarm t`, `t` a Tick (R152). -/
def decodeSetAlarm (c : Config) : List Nat → Except DecodeError Instr
  | [t] => if t < 2 ^ c.wTick then .ok (.setAlarm t) else .error .operandTooWide
  | _ => .error .wrongOperandCount

/-- An internal operation called by name (R96, R98; log 8). -/
def decodeInternal (c : Config) (op : InternalOp) (ws : List Nat) : Except DecodeError Instr :=
  match op with
  | .encodeDigits => decodeNumber .encodeDigits ws
  | .shiftByte => decodeShiftByte ws
  | .emitFrame => decodeEmitFrame ws
  | .scan => decodeBare .scan ws
  | .doEnable => decodeBare .doEnable ws
  | .doDisable => decodeBare .doDisable ws
  | .doSetValue => decodeNumber .doSetValue ws
  | .pinOp p l => decodeBare (.pinOp p l) ws
  | .alarmNow => decodeBare .alarmNow ws
  | .setAlarm => decodeSetAlarm c ws
  | .alarmEnable => decodeBare .alarmEnable ws
  | .alarmDisable => decodeBare .alarmDisable ws

/-- The decoder. A command reaches the block if and only if it names `DRIVER_NUM` (R80). -/
def decode (c : Config) (inp : Input) : Except DecodeError Instr :=
  match inp.port with
  | .syscall driver => if driver = driverNum then decodeCommand c inp.words else .error .otherDriver
  | .callback => decodeBare .fired inp.words
  | .counter => decodeBare .tick inp.words
  | .frame => decodeFrame inp.words
  | .internal op => decodeInternal c op inp.words

/-- The command tuple of `cmd_num` with these arguments, as the host sends it to `DRIVER_NUM` (R80, R81). -/
def commandInput (cmdNum : Nat) (a : CmdArgs) : Input :=
  ⟨.syscall driverNum, [cmdNum, a.data1, a.data2, a.appId]⟩

/-- The encoder, from the command map (R83), the frame word of `BLANK_FRAME` (R134) and the textual names (R95, R96, R98). -/
def encode : Instr → Input
  | .probe a => commandInput 0 a
  | .enable a => commandInput 1 a
  | .disable a => commandInput 2 a
  | .setValue a => commandInput 3 a
  | .unsupported k a => commandInput k a
  | .fired => ⟨.callback, []⟩
  | .tick => ⟨.counter, []⟩
  | .encodeDigits n => ⟨.internal .encodeDigits, [n.toNat]⟩
  | .shiftByte v => ⟨.internal .shiftByte, [v.toNat]⟩
  | .emitFrame seg sel => ⟨.internal .emitFrame, [seg.toNat, sel.toNat]⟩
  | .scan => ⟨.internal .scan, []⟩
  | .blankFrame => ⟨.frame, [0xFFF1]⟩
  | .doEnable => ⟨.internal .doEnable, []⟩
  | .doDisable => ⟨.internal .doDisable, []⟩
  | .doSetValue n => ⟨.internal .doSetValue, [n.toNat]⟩
  | .pinOp p l => ⟨.internal (.pinOp p l), []⟩
  | .alarmNow => ⟨.internal .alarmNow, []⟩
  | .setAlarm t => ⟨.internal .setAlarm, [t]⟩
  | .alarmEnable => ⟨.internal .alarmEnable, []⟩
  | .alarmDisable => ⟨.internal .alarmDisable, []⟩

/-- The input whose bits are `w`, numbered as spec/opcode_table.json numbers them. A 16-bit row is a frame word (R86); every
other row is a command tuple, whose 32-bit word `cmd_num` stands first (R83, at the default `W_WORD = 32`), with `data1`,
`data2`, `app_id` counting on from bit 32. No bits are no input (R97). DESIGN CHOICE (logs 7 and 9). -/
def tableInput (nbits w : Nat) : Input :=
  let v := w % 2 ^ nbits
  if nbits = 0 then ⟨.syscall driverNum, []⟩
  else if nbits = 16 then ⟨.frame, [v]⟩
  else ⟨.syscall driverNum, [v % 2 ^ 32, v / 2 ^ 32 % 2 ^ 32, v / 2 ^ 64 % 2 ^ 32, v / 2 ^ 96]⟩

/-- The operation the decoder reads from a table word, under the default configuration. -/
def decodeTableWord (nbits w : Nat) : Option Instr :=
  match decode Config.default (tableInput nbits w) with
  | .ok i => some i
  | .error _ => none

end Sys2Proof
end

