-- ==== Sys2Proof/Machine/State.lean ====
section
/-! DEFINITION. The state of the block (spec/10_state.md R20), its two traces (R33), the reference load (R32, R141), and what
the model carries beside them; the reasons a step can stop; reset (R34). -/

namespace Sys2Proof.Machine

/-- The four registers `digits[0]` to `digits[3]` (R22); index 0 is the leftmost position. -/
structure Digits where
  d0 : Byte
  d1 : Byte
  d2 : Byte
  d3 : Byte
  deriving DecidableEq, Repr

/-- One entry of the pin trace, the pair `(p, l)` (R33, R130). -/
structure PinWrite where
  pin : Pin
  level : Bool
  deriving DecidableEq, Repr

/-- One entry of the alarm trace: the call with its argument and, for `now()`, its result (R33, R98). -/
inductive AlarmCall
  | now (result : Nat)
  | setAlarm (t : Nat)
  | enable
  | disable
  deriving DecidableEq, Repr

/-- What a command returns (spec/30_encoding.md R82); no numbers are given to the two variants (D16). -/
inductive ReturnCode
  | success
  | notSupported
  deriving DecidableEq, Repr

/-- What an operation hands to its caller: a command its return code, `now()` a Tick (R151), `ENCODE` four bytes (R110). -/
inductive Returned
  | code (rc : ReturnCode)
  | tick (t : Nat)
  | digits (d : Digits)
  deriving DecidableEq, Repr

/-- The state. Levels and one-bit elements are Booleans, `true` for 1. Ticks are numbers below `2^W_TICK` (log 6). -/
structure State where
  /-- The platform's parameters (R8, R30). No operation writes them. DESIGN CHOICE (log 3). -/
  cfg : Config
  /-- Whether a value has ever been set (R21). -/
  valueValid : Bool
  /-- The number to display, meaningful only when `valueValid` (R21). -/
  value : Word16
  /-- The segment bitmap of each position (R22). -/
  digits : Digits
  /-- Disabled or Enabled (R23). -/
  enabled : Bool
  /-- Level of the pin LATCH (R24). -/
  latch : Bool
  /-- Level of the pin CLOCK (R24). -/
  clock : Bool
  /-- Level of the pin DATA (R24). -/
  data : Bool
  /-- The alarm counter (R25). -/
  now : Nat
  /-- The alarm compare register (R26). -/
  cmp : Nat
  /-- The alarm is enabled (R27). -/
  armed : Bool
  /-- The alarm was reached and `FIRED` is not yet delivered (R28). -/
  pending : Bool
  /-- All pin operations since reset, oldest first (R33). -/
  pinTrace : List PinWrite
  /-- All alarm calls since reset, oldest first (R33). -/
  alarmTrace : List AlarmCall
  /-- Shift register of the reference load (R32, R141). -/
  sr : Word16
  /-- Output register of the reference load (R32, R141). -/
  out : Word16
  /-- What operations have handed to their callers, oldest first. The model's own (log 10). -/
  returns : List Returned
  /-- The operations the agents take next. The model's own (log 1). -/
  queue : List Input
  deriving DecidableEq, Repr

/-- Why the machine is stuck. -/
inductive Fault
  /-- Raised by `FIRED` while `pending = 0`: the spec has no such step (R157, R163; U11 "stuck"). Safe: the run stops. -/
  | firedNotPending
  deriving DecidableEq, Repr

/-- Why an operation has no meaning. -/
inductive Refusal
  /-- An operation not modelled yet, by its mnemonic. Raised by no arm. Safe. -/
  | notModelled (mnemonic : String)
  /-- Raised by fetching an input that is no operation of the block (log 7). Safe: the run stops. -/
  | notAnOperation (e : DecodeError)
  /-- Raised by `ENCODE`, `do_set_value`, and `do_enable` with a stored value, for a number above 9999: the spec gives
  `ENCODE` no value there (R113, U1). Safe: the run stops. -/
  | encodeOutOfDomain
  deriving DecidableEq, Repr

/-- The values the spec leaves free at reset (R8, R34): `PIN_INIT`, `NOW_INIT`, `CMP_INIT`, `SR_INIT`, `OUT_INIT`, and
the contents of `value` while no value is valid. -/
structure ResetDraws where
  value : Word16
  latch : Bool
  clock : Bool
  data : Bool
  now : Nat
  cmp : Nat
  sr : Word16
  out : Word16
  deriving DecidableEq, Repr

/-- Draws of the registers' widths: `NOW_INIT` and `CMP_INIT` are `W_TICK`-bit values (R8). -/
abbrev ResetDraws.InRange (c : Config) (d : ResetDraws) : Prop :=
  d.now < 2 ^ c.wTick ∧ d.cmp < 2 ^ c.wTick

/-- The state after construction (R34, R240, R242) for any parameters and any draws: idle, nothing scheduled. -/
def State.resetWith (c : Config) (d : ResetDraws) : State where
  cfg := c
  valueValid := false
  value := d.value
  digits := ⟨0xFF#8, 0xFF#8, 0xFF#8, 0xFF#8⟩
  enabled := false
  latch := d.latch
  clock := d.clock
  data := d.data
  now := d.now
  cmp := d.cmp
  armed := false
  pending := false
  pinTrace := []
  alarmTrace := []
  sr := d.sr
  out := d.out
  returns := []
  queue := []

/-- The draws of `State.reset`: all zero. DESIGN CHOICE, unsafe (log 5). -/
def ResetDraws.zero : ResetDraws := ⟨0#16, false, false, false, 0, 0, 0#16, 0#16⟩

/-- The machine right after reset. -/
def State.reset : State := State.resetWith Config.default ResetDraws.zero

end Sys2Proof.Machine
end

