-- ==== Sys2Proof/Machine/Ops.lean ====
section
/-! DEFINITION. The shared operations on the state: the pin primitive with the reference load that reacts to it, the four alarm
calls, what an operation hands to its caller. The block raises no exception (spec/60_exceptions.md R210) and its one event
saves and restores nothing (R218, R219), so there is no exception entry or return among them. -/

namespace Sys2Proof.Machine

/-- The reference load's shift `SR <- { SR[14:0], DATA }` (R141): the top bit is lost, DATA becomes bit 0. -/
def shiftIn (sr : Word16) (data : Bool) : Word16 := sr.shiftConcat data

/-- `PinOp(p, l)` (R130): the trace always grows, the pin takes the level. The load (R141) tests the levels before the
operation: CLOCK rising shifts DATA in, LATCH rising publishes. -/
def State.pinOp (s : State) (p : Pin) (l : Bool) : State :=
  { s with
    pinTrace := s.pinTrace ++ [⟨p, l⟩]
    latch := if p = .latch then l else s.latch
    clock := if p = .clock then l else s.clock
    data := if p = .data then l else s.data
    sr := if p = .clock ∧ l = true ∧ s.clock = false then shiftIn s.sr s.data else s.sr
    out := if p = .latch ∧ l = true ∧ s.latch = false then s.sr else s.out }

/-- `PERIOD = FREQ div 8000` (R155). -/
def period (c : Config) : Nat := c.freq / refreshDiv

/-- `a +w b`, addition modulo `2^W_TICK` (R10). -/
def tickAdd (c : Config) (a b : Nat) : Nat := (a + b) % 2 ^ c.wTick

/-- The alarm call `now()` (R151): it is recorded with its result, the counter. -/
def State.callNow (s : State) : State := { s with alarmTrace := s.alarmTrace ++ [.now s.now] }

/-- The alarm call `set_alarm(t)` (R152). -/
def State.callSetAlarm (s : State) (t : Nat) : State :=
  { s with alarmTrace := s.alarmTrace ++ [.setAlarm t], cmp := t, pending := false }

/-- The alarm call `enable()` (R153). -/
def State.callEnable (s : State) : State :=
  { s with alarmTrace := s.alarmTrace ++ [.enable], armed := true }

/-- The alarm call `disable()` (R154). -/
def State.callDisable (s : State) : State :=
  { s with alarmTrace := s.alarmTrace ++ [.disable], armed := false, pending := false }

/-- `t <- AlarmCall(now()); AlarmCall(set_alarm(t +w PERIOD))`, the common part of R159 and R162. -/
def State.reschedule (s : State) : State :=
  s.callNow.callSetAlarm (tickAdd s.cfg s.now (period s.cfg))

/-- Hand a value to the caller. -/
def State.handBack (s : State) (r : Returned) : State := { s with returns := s.returns ++ [r] }

/-- `return rc` (R12). -/
def State.returnCode (s : State) (rc : ReturnCode) : State := s.handBack (.code rc)

/-- An operation that reached `ENCODE` outside its domain has no meaning (R113). -/
def encodedOrRefused : Option State → Host.Outcome State Fault Refusal
  | some s => .next s
  | none => .refused .encodeOutOfDomain

end Sys2Proof.Machine
end

