-- ==== Sys2Proof/Machine/Alarm.lean ====
section
/-! DEFINITION. The four alarm calls as operations of their own (spec/42_display_state_machine.md section 1). -/

namespace Sys2Proof.Machine

/-- `now()` (R151): the counter goes to the caller. -/
def execAlarmNow (s : State) : Host.Outcome State Fault Refusal := .next (s.callNow.handBack (.tick s.now))

/-- `set_alarm(t)` (R152). -/
def execSetAlarm (t : Nat) (s : State) : Host.Outcome State Fault Refusal := .next (s.callSetAlarm t)

/-- `enable()` (R153). -/
def execAlarmEnable (s : State) : Host.Outcome State Fault Refusal := .next s.callEnable

/-- `disable()` (R154). -/
def execAlarmDisable (s : State) : Host.Outcome State Fault Refusal := .next s.callDisable

end Sys2Proof.Machine
end

