-- ==== Sys2Proof/Machine/Operands.lean ====
section
/-! DEFINITION. The two constant tables (spec/20_memory.md R51, R52), the digit codes and the Digit Encoder's function
(spec/40_digit_encoder.md R110), and the operand of `SETVALUE` (spec/30_encoding.md R84). -/

namespace Sys2Proof.Machine

/-- The segment table `SEG`, entries 0 to 9 and the blank at 10 (R51). -/
def segTable : List Byte :=
  [0xC0#8, 0xF9#8, 0xA4#8, 0xB0#8, 0x99#8, 0x92#8, 0x82#8, 0xF8#8, 0x80#8, 0x90#8, 0xFF#8]

/-- `MemRead(SEG, i)` (R12): nothing outside the eleven entries. -/
def segRead (i : Nat) : Option Byte := segTable[i]?

/-- `MemRead(SEL, p)`, the digit-select mask of position `p` (R52). -/
def selRead : Fin 4 → Byte
  | 0 => 0xF1#8
  | 1 => 0xF2#8
  | 2 => 0xF4#8
  | 3 => 0xF8#8

/-- `digits[p]` (R12, R22). -/
def Digits.get (d : Digits) : Fin 4 → Byte
  | 0 => d.d0
  | 1 => d.d1
  | 2 => d.d2
  | 3 => d.d3

/-- Digit code of the thousands, 10 for blank (R90, R110). -/
def codeThousands (n : Nat) : Nat := if 1000 ≤ n then n / 1000 else 10

/-- Digit code of the hundreds (R110). -/
def codeHundreds (n : Nat) : Nat := if 100 ≤ n then n / 100 % 10 else 10

/-- Digit code of the tens (R110). -/
def codeTens (n : Nat) : Nat := if 10 ≤ n then n / 10 % 10 else 10

/-- Digit code of the units, always a digit (R110). -/
def codeUnits (n : Nat) : Nat := n % 10

/-- `ENCODE(N)` (R110), defined for `0 <= N <= 9999` only (R113). -/
def encodeValue (n : Word16) : Option Digits :=
  if n.toNat ≤ 9999 then
    match segRead (codeThousands n.toNat), segRead (codeHundreds n.toNat),
      segRead (codeTens n.toNat), segRead (codeUnits n.toNat) with
    | some d0, some d1, some d2, some d3 => some ⟨d0, d1, d2, d3⟩
    | _, _, _, _ => none
  else none

/-- `N = data1[15:0]` (R84): the higher bits are discarded unexamined. -/
def setValueOperand (data1 : Nat) : Word16 := BitVec.ofNat 16 data1

end Sys2Proof.Machine
end

