-- ==== Sys2Proof/Machine/ShiftOut.lean ====
section
/-! DEFINITION. The Shift-Register Output (spec/41_shift_register_output.md): `PinOp`, `SHIFT_BYTE`, `EMIT_FRAME`, `SCAN`,
`BLANK_FRAME`. -/

namespace Sys2Proof.Machine

/-- One turn of `SHIFT_BYTE`'s loop: DATA takes the bit, CLOCK goes high, then low (R131). -/
def State.shiftBit (s : State) (b : Bool) : State :=
  ((s.pinOp .data b).pinOp .clock true).pinOp .clock false

/-- `SHIFT_BYTE(v)` (R131): bit 7 first, bit 0 last. -/
def State.shiftByte (s : State) (v : Byte) : State :=
  [7, 6, 5, 4, 3, 2, 1, 0].foldl (fun t i => t.shiftBit (v.getLsbD i)) s

/-- `EMIT_FRAME(seg, sel)` (R132). -/
def State.emitFrame (s : State) (seg sel : Byte) : State :=
  (((s.pinOp .latch false).shiftByte seg).shiftByte sel).pinOp .latch true

/-- `SCAN` (R133): positions 0, 1, 2, 3 in this order. -/
def State.scan (s : State) : State :=
  ([0, 1, 2, 3] : List (Fin 4)).foldl (fun t p => t.emitFrame (t.digits.get p) (selRead p)) s

/-- `BLANK_FRAME` (R134). -/
def State.blankFrame (s : State) : State := s.emitFrame 0xFF#8 0xF1#8

/-- `PinOp(p, l)` (R130). -/
def execPinOp (p : Pin) (l : Bool) (s : State) : Host.Outcome State Fault Refusal := .next (s.pinOp p l)

/-- `SHIFT_BYTE v` (R131). -/
def execShiftByte (v : Byte) (s : State) : Host.Outcome State Fault Refusal := .next (s.shiftByte v)

/-- `EMIT_FRAME seg, sel` (R132). -/
def execEmitFrame (seg sel : Byte) (s : State) : Host.Outcome State Fault Refusal := .next (s.emitFrame seg sel)

/-- `SCAN` (R133). -/
def execScan (s : State) : Host.Outcome State Fault Refusal := .next s.scan

/-- `BLANK_FRAME` (R134). -/
def execBlankFrame (s : State) : Host.Outcome State Fault Refusal := .next s.blankFrame

end Sys2Proof.Machine
end

