-- ==== Sys2Proof/Machine/Display.lean ====
section
/-! DEFINITION. The three transitions of the Display State Machine (spec/42_display_state_machine.md section 3). Each is an
`Option`: none where it would need `ENCODE` of a number above 9999 (R113). -/

namespace Sys2Proof.Machine

/-- The part of `do_enable` after the digits: schedule, arm, enter Enabled (R159). -/
def State.startRefresh (s : State) : State := { s.reschedule.callEnable with enabled := true }

/-- `do_enable` (R159); with no value the encoder is not run (R164); while Enabled nothing happens (R163). -/
def State.doEnable (s : State) : Option State :=
  if s.enabled then some s
  else if s.valueValid then (encodeValue s.value).map fun d => { s with digits := d }.startRefresh
  else some s.startRefresh

/-- `do_disable` (R160); while Disabled nothing happens (R163). -/
def State.doDisable (s : State) : State :=
  if s.enabled then { s.callDisable.blankFrame with enabled := false } else s

/-- `do_set_value(N)` (R161), for `0 <= N <= 9999`. -/
def State.doSetValue (s : State) (n : Word16) : Option State :=
  let t := { s with valueValid := true, value := n }
  if 9999 < n.toNat then none
  else if s.enabled then (encodeValue n).map fun d => { t with digits := d }
  else some t

/-- `do_enable` (R159). -/
def execDoEnable (s : State) : Host.Outcome State Fault Refusal := encodedOrRefused s.doEnable

/-- `do_disable` (R160). -/
def execDoDisable (s : State) : Host.Outcome State Fault Refusal := .next s.doDisable

/-- `do_set_value(N)` (R161). -/
def execDoSetValue (n : Word16) (s : State) : Host.Outcome State Fault Refusal := encodedOrRefused (s.doSetValue n)

end Sys2Proof.Machine
end

