-- ==== Sys2Proof/Machine/Commands.lean ====
section
/-! DEFINITION. The five commands (spec/43_command_surface.md section 2). `data2` and `app_id` are ignored by all, `data1` by
all but `SETVALUE` (spec/30_encoding.md R85, spec/43_command_surface.md R197). -/

namespace Sys2Proof.Machine

/-- `PROBE` (R192). -/
def execProbe (_ : CmdArgs) (s : State) : Host.Outcome State Fault Refusal := .next (s.returnCode .success)

/-- `ENABLE` (R193). -/
def execEnable (_ : CmdArgs) (s : State) : Host.Outcome State Fault Refusal :=
  encodedOrRefused (s.doEnable.map fun t => t.returnCode .success)

/-- `DISABLE` (R194). -/
def execDisable (_ : CmdArgs) (s : State) : Host.Outcome State Fault Refusal :=
  .next (s.doDisable.returnCode .success)

/-- `SETVALUE` (R195): truncation first, then the range test (R84). -/
def execSetValue (a : CmdArgs) (s : State) : Host.Outcome State Fault Refusal :=
  if 9999 < (setValueOperand a.data1).toNat then .next (s.returnCode .notSupported)
  else encodedOrRefused ((s.doSetValue (setValueOperand a.data1)).map fun t => t.returnCode .success)

/-- `UNSUPPORTED` (R196). -/
def execUnsupported (_ : Nat) (_ : CmdArgs) (s : State) : Host.Outcome State Fault Refusal :=
  .next (s.returnCode .notSupported)

end Sys2Proof.Machine
end

