-- ==== Sys2Proof/Machine/Encoder.lean ====
section
/-! DEFINITION. The Digit Encoder as an operation of its own (spec/40_digit_encoder.md). -/

namespace Sys2Proof.Machine

/-- `ENCODE(N)` (R110): reads and writes no state; the four bytes go to the caller. No meaning above 9999 (R113). -/
def execEncodeDigits (n : Word16) (s : State) : Host.Outcome State Fault Refusal :=
  encodedOrRefused ((encodeValue n).map fun d => s.handBack (.digits d))

end Sys2Proof.Machine
end

