-- ==== Sys2Proof/Machine/Flags.lean ====
section
/-! DEFINITION. The block has no condition codes (spec/10_state.md R31). Its one-bit elements are `value_valid`, `enabled`,
`armed`, `pending`; the one that is computed is `pending`, by the alarm's match test. -/

namespace Sys2Proof.Machine

/-- The match test of `TICK` (R156): equality of the counter's new value with `cmp`, while armed. -/
def alarmReached (s : State) (now' : Nat) : Bool := s.armed && decide (now' = s.cmp)

/-- `pending` after a `TICK`: set at a match, otherwise as it was (R156). -/
def pendingAfterTick (s : State) (now' : Nat) : Bool := alarmReached s now' || s.pending

/-- Whether `FIRED` can be taken (R157). -/
def State.firedEnabled (s : State) : Bool := s.pending

end Sys2Proof.Machine
end

