-- ==== Sys2Proof/Machine/Events.lean ====
section
/-! DEFINITION. The two events (spec/42_display_state_machine.md section 2). -/

namespace Sys2Proof.Machine

/-- `TICK` (R156). -/
def State.tick (s : State) : State :=
  { s with now := tickAdd s.cfg s.now 1, pending := pendingAfterTick s (tickAdd s.cfg s.now 1) }

/-- The body of `FIRED` (R162): one full scan (R169), then the schedule from the counter read after it. -/
def State.fire (s : State) : State := { s with pending := false }.scan.reschedule

/-- `TICK` (R156). -/
def execTick (s : State) : Host.Outcome State Fault Refusal := .next s.tick

/-- `FIRED` (R162), enabled exactly when `pending = 1` (R157); otherwise there is no such step (R163, U11). -/
def execFired (s : State) : Host.Outcome State Fault Refusal :=
  if s.firedEnabled then .next s.fire else .fault .firedNotPending

end Sys2Proof.Machine
end

