-- ==== Sys2Proof/Machine/Dispatch.lean ====
section
/-! DEFINITION. One arm per operation. -/

namespace Sys2Proof.Machine

/-- The meaning of each operation. -/
def exec (i : Instr) (s : State) : Host.Outcome State Fault Refusal :=
  match i with
  | .probe args => Sys2Proof.Machine.execProbe args s
  | .enable args => Sys2Proof.Machine.execEnable args s
  | .disable args => Sys2Proof.Machine.execDisable args s
  | .setValue args => Sys2Proof.Machine.execSetValue args s
  | .unsupported cmdNum args => Sys2Proof.Machine.execUnsupported cmdNum args s
  | .fired => Sys2Proof.Machine.execFired s
  | .tick => Sys2Proof.Machine.execTick s
  | .encodeDigits n => Sys2Proof.Machine.execEncodeDigits n s
  | .shiftByte v => Sys2Proof.Machine.execShiftByte v s
  | .emitFrame seg sel => Sys2Proof.Machine.execEmitFrame seg sel s
  | .scan => Sys2Proof.Machine.execScan s
  | .blankFrame => Sys2Proof.Machine.execBlankFrame s
  | .doEnable => Sys2Proof.Machine.execDoEnable s
  | .doDisable => Sys2Proof.Machine.execDoDisable s
  | .doSetValue n => Sys2Proof.Machine.execDoSetValue n s
  | .pinOp p l => Sys2Proof.Machine.execPinOp p l s
  | .alarmNow => Sys2Proof.Machine.execAlarmNow s
  | .setAlarm t => Sys2Proof.Machine.execSetAlarm t s
  | .alarmEnable => Sys2Proof.Machine.execAlarmEnable s
  | .alarmDisable => Sys2Proof.Machine.execAlarmDisable s

end Sys2Proof.Machine
end

