-- ==== Sys2Proof/Machine/Fetch.lean ====
section
/-! DEFINITION. Which operation is next. The spec lets any enabled operation of any agent be next (spec/60_exceptions.md R217);
the state's schedule says which one is taken (log 1). -/

namespace Sys2Proof.Machine

/-- The next operation, and the state it is taken in. When the schedule is exhausted only the free-running counter acts
(R223): `TICK` (log 2). -/
def fetch (s : State) : Except DecodeError (Instr × State) :=
  match s.queue with
  | [] => .ok (.tick, s)
  | inp :: rest =>
    match decode s.cfg inp with
    | .ok i => .ok (i, { s with queue := rest })
    | .error e => .error e

/-- The state with one more input in front of the schedule. -/
def State.schedule (s : State) (inp : Input) : State := { s with queue := inp :: s.queue }

end Sys2Proof.Machine
end

