-- ==== Sys2Proof/Machine/Step.lean ====
section
/-! DEFINITION. One step: one whole operation (spec/00_scope.md R6). -/

namespace Sys2Proof.Machine

/-- Take the next operation; an input that is none is refused by name. -/
def step (s : State) : Host.Outcome State Fault Refusal :=
  match fetch s with
  | .ok (i, t) => exec i t
  | .error e => .refused (.notAnOperation e)

/-- The state with a table word's input in front of the schedule (log 7). -/
def State.withFetchWord (s : State) (nbits w : Nat) : State := s.schedule (tableInput nbits w)

end Sys2Proof.Machine
end

