-- ==== Sys2Proof/Safety.lean ====
section
/-! DEFINITION. The terms claims use: the pin operations of a byte, a frame and a scan written out as lists, edges, the load's
contents after a byte and a frame, the blocks of the alarm trace, inputs from outside, and the invariant of runs. -/

namespace Sys2Proof

/-- The input comes from one of the three agents of spec/00_scope.md R7: a command, `FIRED` or `TICK`. -/
def Input.external (inp : Input) : Bool :=
  match inp.port with
  | .syscall _ => true
  | .callback => true
  | .counter => true
  | .frame => false
  | .internal _ => false

/-- The operation is a command, `FIRED` or `TICK` (R6). -/
def Instr.external : Instr → Bool
  | .probe _ => true
  | .enable _ => true
  | .disable _ => true
  | .setValue _ => true
  | .unsupported _ _ => true
  | .fired => true
  | .tick => true
  | .encodeDigits _ => false
  | .shiftByte _ => false
  | .emitFrame _ _ => false
  | .scan => false
  | .blankFrame => false
  | .doEnable => false
  | .doDisable => false
  | .doSetValue _ => false
  | .pinOp _ _ => false
  | .alarmNow => false
  | .setAlarm _ => false
  | .alarmEnable => false
  | .alarmDisable => false

/-- The input is the command `ENABLE` (any arguments). -/
def Input.isEnable (inp : Input) : Bool :=
  match inp.port, inp.words with
  | .syscall _, cmdNum :: _ => decide (cmdNum = 1)
  | _, _ => false

/-- Two inputs that differ at most in operands the block ignores (spec/30_encoding.md R85, spec/43_command_surface.md R197):
`data2`, `app_id`, and `data1` but for the low 16 bits of `SETVALUE`'s; or the same input. -/
inductive Input.SameButIgnored (c : Config) : Input → Input → Prop
  | same (inp : Input) : Input.SameButIgnored c inp inp
  | command (k d1 d2 app e1 e2 app' : Nat)
      (hd1 : d1 < 2 ^ c.wWord) (hd2 : d2 < 2 ^ c.wWord) (he1 : e1 < 2 ^ c.wWord) (he2 : e2 < 2 ^ c.wWord)
      (h : k = 3 → d1 % 2 ^ 16 = e1 % 2 ^ 16) :
      Input.SameButIgnored c (commandInput k ⟨d1, d2, app⟩) (commandInput k ⟨e1, e2, app'⟩)

/-- Position by position, the two schedules differ at most in ignored operands. -/
inductive SchedulesAlike (c : Config) : List Input → List Input → Prop
  | nil : SchedulesAlike c [] []
  | cons {i j : Input} {is js : List Input} (h : Input.SameButIgnored c i j) (hs : SchedulesAlike c is js) :
      SchedulesAlike c (i :: is) (j :: js)

end Sys2Proof

namespace Sys2Proof.Machine

/-- The three pin operations of one bit: `D<bit>`, `C1`, `C0` (spec/30_encoding.md R96). -/
def bitWrites (b : Bool) : List PinWrite := [⟨.data, b⟩, ⟨.clock, true⟩, ⟨.clock, false⟩]

/-- The 24 pin operations of `SHIFT_BYTE v` (R96). -/
def byteWrites (v : Byte) : List PinWrite :=
  bitWrites (v.getLsbD 7) ++ bitWrites (v.getLsbD 6) ++ bitWrites (v.getLsbD 5) ++ bitWrites (v.getLsbD 4) ++
  bitWrites (v.getLsbD 3) ++ bitWrites (v.getLsbD 2) ++ bitWrites (v.getLsbD 1) ++ bitWrites (v.getLsbD 0)

/-- The 50 pin operations of `EMIT_FRAME seg, sel` (R96). -/
def frameWrites (seg sel : Byte) : List PinWrite :=
  [⟨.latch, false⟩] ++ byteWrites seg ++ byteWrites sel ++ [⟨.latch, true⟩]

/-- The 200 pin operations of a scan of these digits (R96), with the masks of spec/20_memory.md R52. -/
def scanWrites (d : Digits) : List PinWrite :=
  frameWrites d.d0 0xF1#8 ++ frameWrites d.d1 0xF2#8 ++ frameWrites d.d2 0xF4#8 ++ frameWrites d.d3 0xF8#8

/-- The pin operations of a sequence of frames (segment byte, mask). -/
def framesWrites : List (Byte × Byte) → List PinWrite
  | [] => []
  | f :: fs => frameWrites f.1 f.2 ++ framesWrites fs

/-- The pin operations of a list, one after another. -/
def State.pinOps (s : State) (ws : List PinWrite) : State := ws.foldl (fun t w => t.pinOp w.pin w.level) s

/-- The level of a pin after these pin operations, from its level before (spec/00_scope.md R14). -/
def levelAfter (p : Pin) (level : Bool) : List PinWrite → Bool
  | [] => level
  | w :: ws => levelAfter p (if w.pin = p then w.level else level) ws

/-- The number of rising edges of pin `p`, whose level before is `level` (R14: a write of the same level is no edge). -/
def risingEdges (p : Pin) (level : Bool) : List PinWrite → Nat
  | [] => 0
  | w :: ws =>
    if w.pin = p then (if level = false ∧ w.level = true then 1 else 0) + risingEdges p w.level ws
    else risingEdges p level ws

/-- The number of falling edges of pin `p`. -/
def fallingEdges (p : Pin) (level : Bool) : List PinWrite → Nat
  | [] => 0
  | w :: ws =>
    if w.pin = p then (if level = true ∧ w.level = false then 1 else 0) + fallingEdges p w.level ws
    else fallingEdges p level ws

/-- The number of writes of level `l` to pin `p`. -/
def writesOf (p : Pin) (l : Bool) (ws : List PinWrite) : Nat := ws.count ⟨p, l⟩

/-- A frame as a 16-bit word `{seg, sel}` (spec/30_encoding.md R86). -/
def frameWord (seg sel : Byte) : Word16 := seg ++ sel

/-- The load's shift register after a byte entered with this CLOCK level (spec/41_shift_register_output.md R131, R139):
eight bits shifted in, or seven when CLOCK was high on entry. -/
def srAfterByte (clock : Bool) (sr : Word16) (v : Byte) : Word16 :=
  if clock then sr.extractLsb' 0 9 ++ v.extractLsb' 0 7 else sr.extractLsb' 0 8 ++ v

/-- The load's registers after a frame entered with this CLOCK level (R142): `{seg, sel}`, or `{SR[0], seg[6:0], sel}`. -/
def loadAfterFrame (clock : Bool) (sr : Word16) (seg sel : Byte) : Word16 :=
  if clock then sr.extractLsb' 0 1 ++ (seg.extractLsb' 0 7 ++ sel) else frameWord seg sel

/-- Reading the alarm trace block by block (spec/42_display_state_machine.md R166), from Disabled (`false`) or Enabled
(`true`): the state after the last block, or none where the trace is no concatenation of blocks. -/
def alarmBlocks (c : Config) : Bool → List AlarmCall → Option Bool
  | e, [] => some e
  | false, .now t :: .setAlarm u :: .enable :: rest =>
    if u = tickAdd c t (period c) then alarmBlocks c true rest else none
  | true, .now t :: .setAlarm u :: rest =>
    if u = tickAdd c t (period c) then alarmBlocks c true rest else none
  | true, .disable :: rest => alarmBlocks c false rest
  | _, _ => none

/-- What holds of the frames emitted since reset: every segment byte is an entry of `SEG` and every mask one of `SEL`
(spec/30_encoding.md R88, R89); after the last one CLOCK rests at 0, LATCH at 1 and DATA at the mask's bit 0
(spec/10_state.md R39); from the second on the load holds the frame (spec/70_reset_and_hazards.md R246). -/
structure FramesInv (s : State) (frames : List (Byte × Byte)) : Prop where
  trace : s.pinTrace = framesWrites frames
  segEntries : ∀ f ∈ frames, f.1 ∈ segTable
  selEntries : ∀ f ∈ frames, ∃ p, f.2 = selRead p
  rest : ∀ f, frames.getLast? = some f → s.latch = true ∧ s.clock = false ∧ s.data = f.2.getLsbD 0
  load : ∀ f, frames.getLast? = some f → 2 ≤ frames.length → s.sr = frameWord f.1 f.2 ∧ s.out = frameWord f.1 f.2

/-- The invariant of runs of the three agents. -/
structure Inv (s : State) : Prop where
  /-- Only commands, `FIRED` and `TICK` are scheduled (spec/00_scope.md R7). -/
  external : ∀ inp ∈ s.queue, inp.external = true
  /-- The counter is a `W_TICK`-bit number (spec/10_state.md R25). -/
  nowInRange : s.now < 2 ^ s.cfg.wTick
  /-- The compare register is a `W_TICK`-bit number (R26). -/
  cmpInRange : s.cmp < 2 ^ s.cfg.wTick
  /-- `enabled = armed` (R35). -/
  enabledArmed : s.enabled = s.armed
  /-- While Enabled with a value, `digits = ENCODE(value)` (R36). -/
  digitsFresh : s.enabled = true → s.valueValid = true → encodeValue s.value = some s.digits
  /-- A stored value is in `0 .. 9999` (R37). -/
  valueInDomain : s.valueValid = true → s.value.toNat ≤ 9999
  /-- Without a value `digits` are all blank (R38). -/
  digitsBlank : s.valueValid = false → s.digits = ⟨0xFF#8, 0xFF#8, 0xFF#8, 0xFF#8⟩
  /-- The bytes held are entries of `SEG` (spec/40_digit_encoder.md R115). -/
  digitsFromSeg : ∀ p, s.digits.get p ∈ segTable
  /-- `pending = 1` implies `armed = 1` (R40). -/
  pendingArmed : s.pending = true → s.armed = true
  /-- The pin trace is a sequence of frames, and the pins rest as R39 says. -/
  frames : ∃ fs, FramesInv s fs
  /-- The alarm trace is a sequence of blocks (spec/42_display_state_machine.md R166). -/
  alarm : alarmBlocks s.cfg false s.alarmTrace = some s.enabled

end Sys2Proof.Machine
end

