-- ==== Sys2Proof/Certificates/Slice0/Obligations.lean ====
section
/-! DEFINITION. The statements. Each says which rule of spec/ it formalises; a statement that rests on a choice of the model names
the log entry. `s.cfg.freq / 8000` is `PERIOD` (spec/42_display_state_machine.md R155) and `(a + b) % 2 ^ s.cfg.wTick` is
`a +w b` (spec/00_scope.md R10), written out. A conclusion `= .next { s with … }` says the operation's effect and its frame in
one: every field not named is unchanged. The block has no writable memory (spec/20_memory.md R50, R70). -/

open Sys2Proof Sys2Proof.Machine

/-! ### Reset, steps, decoding -/

/-- R34, R241: whatever the parameters and the draws, construction leaves the value absent, the digits blank, the display
Disabled, the alarm neither armed nor pending, both traces empty; every other register holds its draw.
`armed`, `pending`, the traces and the draws are the spec's own choices (D11, D13, D20). -/
def Obligations.ResetIsConstruction : Prop :=
  ∀ (c : Config) (d : ResetDraws),
    (State.resetWith c d).cfg = c ∧
    (State.resetWith c d).valueValid = false ∧
    (State.resetWith c d).digits = ⟨0xFF#8, 0xFF#8, 0xFF#8, 0xFF#8⟩ ∧
    (State.resetWith c d).enabled = false ∧
    (State.resetWith c d).armed = false ∧ (State.resetWith c d).pending = false ∧
    (State.resetWith c d).pinTrace = [] ∧ (State.resetWith c d).alarmTrace = [] ∧
    (State.resetWith c d).latch = d.latch ∧ (State.resetWith c d).clock = d.clock ∧ (State.resetWith c d).data = d.data ∧
    (State.resetWith c d).now = d.now ∧ (State.resetWith c d).cmp = d.cmp ∧
    (State.resetWith c d).sr = d.sr ∧ (State.resetWith c d).out = d.out

/-- The model's step (logs 1 and 2): the first scheduled input's operation in the state without that input; with nothing
scheduled, `TICK`; an input that is no operation is refused by name. -/
def Obligations.StepRunsScheduledOperation : Prop :=
  ∀ (s : State),
    (∀ inp rest i, s.queue = inp :: rest → decode s.cfg inp = .ok i → step s = exec i { s with queue := rest }) ∧
    (s.queue = [] → step s = exec .tick s) ∧
    (∀ inp rest e, s.queue = inp :: rest → decode s.cfg inp = .error e → step s = .refused (.notAnOperation e))

/-- A few inputs written out from the command map (spec/30_encoding.md R83, R95) and the table decode to the operations they
stand for. Rests on the model's tuple and port conventions (logs 7, 8, 9). -/
def Obligations.WrittenInputsDecode : Prop :=
  decodeTableWord 32 0 = some (.probe ⟨0, 0, 0⟩) ∧
  decodeTableWord 32 1 = some (.enable ⟨0, 0, 0⟩) ∧
  decodeTableWord 32 2 = some (.disable ⟨0, 0, 0⟩) ∧
  decodeTableWord 64 0x000004D200000003 = some (.setValue ⟨1234, 0, 0⟩) ∧
  decodeTableWord 32 0x10001 = some (.unsupported 65537 ⟨0, 0, 0⟩) ∧
  decodeTableWord 16 0xFFF1 = some .blankFrame ∧
  decodeTableWord 16 0xF9F2 = some (.emitFrame 0xF9#8 0xF2#8) ∧
  decode Config.default ⟨.callback, []⟩ = .ok .fired ∧
  decode Config.default ⟨.counter, []⟩ = .ok .tick ∧
  decode Config.default ⟨.internal .shiftByte, [0xAA]⟩ = .ok (.shiftByte 0xAA#8) ∧
  decode Config.default ⟨.internal .setAlarm, [102]⟩ = .ok (.setAlarm 102)

/-- Decoding an encoded well-formed operation gives it back, with every operand, under every configuration. -/
def Obligations.DecodeOfEncode : Prop :=
  ∀ (c : Config) (i : Instr), i.wellFormed c = true → decode c (encode i) = .ok i

/-- The other direction: what the decoder answers is well-formed, and comes from an agent of R7 exactly when its input does. -/
def Obligations.DecodedIsWellFormed : Prop :=
  ∀ (c : Config) (inp : Input) (i : Instr), decode c inp = .ok i → i.wellFormed c = true ∧ i.external = inp.external

/-- R83, R191, R80: every tuple of `W_WORD`-bit numbers sent to `DRIVER_NUM` is a command, chosen by the whole of `cmd_num`,
with its arguments kept; under another driver number no tuple reaches the block (refused by name, log 7). -/
def Obligations.EveryTupleDispatched : Prop :=
  ∀ (c : Config) (k d1 d2 app : Nat), k < 2 ^ c.wWord → d1 < 2 ^ c.wWord → d2 < 2 ^ c.wWord →
    decode c ⟨.syscall 0xB0000000, [k, d1, d2, app]⟩ = .ok
      (match k with
        | 0 => .probe ⟨d1, d2, app⟩
        | 1 => .enable ⟨d1, d2, app⟩
        | 2 => .disable ⟨d1, d2, app⟩
        | 3 => .setValue ⟨d1, d2, app⟩
        | k' + 4 => .unsupported (k' + 4) ⟨d1, d2, app⟩) ∧
    ∀ driver, driver ≠ 0xB0000000 → decode c ⟨.syscall driver, [k, d1, d2, app]⟩ = .error .otherDriver

/-! ### The parameters and the tables -/

/-- R155, R248, R8: a configuration exists exactly when `W_WORD >= 32` and `8000 <= FREQ < 8000 * 2^W_TICK`; its period is
`FREQ div 8000`, truncated, and `1 <= PERIOD < 2^W_TICK`. The truncation and the limits are the spec's own choices (D3, D5). -/
def Obligations.AdmissiblePeriods : Prop :=
  (∀ wTick wWord freq : Nat,
    (∃ c, Config.mk? wTick wWord freq = some c ∧ c.wTick = wTick ∧ c.wWord = wWord ∧ c.freq = freq) ↔
      32 ≤ wWord ∧ 8000 ≤ freq ∧ freq < 8000 * 2 ^ wTick) ∧
  ∀ c : Config, 1 ≤ period c ∧ period c < 2 ^ c.wTick ∧ 8000 * period c ≤ c.freq ∧ c.freq < 8000 * (period c + 1)

/-- R51, R52: the eleven bytes of `SEG` as printed; `SEL[p] = 0xF0 | (1 << p)`, the four masks as printed. -/
def Obligations.TablesAsPrinted : Prop :=
  segRead 0 = some 0xC0#8 ∧ segRead 1 = some 0xF9#8 ∧ segRead 2 = some 0xA4#8 ∧ segRead 3 = some 0xB0#8 ∧
  segRead 4 = some 0x99#8 ∧ segRead 5 = some 0x92#8 ∧ segRead 6 = some 0x82#8 ∧ segRead 7 = some 0xF8#8 ∧
  segRead 8 = some 0x80#8 ∧ segRead 9 = some 0x90#8 ∧ segRead 10 = some 0xFF#8 ∧ (∀ i, 10 < i → segRead i = none) ∧
  selRead 0 = 0xF1#8 ∧ selRead 1 = 0xF2#8 ∧ selRead 2 = 0xF4#8 ∧ selRead 3 = 0xF8#8 ∧
  ∀ p : Fin 4, selRead p = 0xF0#8 ||| (1#8 <<< p.val)

/-! ### The Digit Encoder -/

/-- R110: on `0 <= N <= 9999`, `ENCODE` hands back the four table entries of the digit codes and changes nothing else. -/
def Obligations.EncodeDigitsByPosition : Prop :=
  ∀ (n : Word16) (s : State), n.toNat ≤ 9999 →
    let seg : List Byte := [0xC0#8, 0xF9#8, 0xA4#8, 0xB0#8, 0x99#8, 0x92#8, 0x82#8, 0xF8#8, 0x80#8, 0x90#8, 0xFF#8]
    ∃ d : Digits,
      exec (.encodeDigits n) s = .next { s with returns := s.returns ++ [.digits d] } ∧
      seg[if n.toNat ≥ 1000 then n.toNat / 1000 else 10]? = some d.d0 ∧
      seg[if n.toNat ≥ 100 then n.toNat / 100 % 10 else 10]? = some d.d1 ∧
      seg[if n.toNat ≥ 10 then n.toNat / 10 % 10 else 10]? = some d.d2 ∧
      seg[n.toNat % 10]? = some d.d3

/-- R111: position `k` in 0 to 2 is blank exactly when `N < 10^(3-k)`, position 3 never; a zero that is not leading is
shown as `0xC0`. -/
def Obligations.LeadingZerosBlank : Prop :=
  ∀ (n : Word16) (d : Digits), encodeValue n = some d →
    (d.d0 = 0xFF#8 ↔ n.toNat < 1000) ∧ (d.d1 = 0xFF#8 ↔ n.toNat < 100) ∧ (d.d2 = 0xFF#8 ↔ n.toNat < 10) ∧
    d.d3 ≠ 0xFF#8 ∧
    (100 ≤ n.toNat → n.toNat / 100 % 10 = 0 → d.d1 = 0xC0#8) ∧
    (10 ≤ n.toNat → n.toNat / 10 % 10 = 0 → d.d2 = 0xC0#8) ∧
    (n.toNat % 10 = 0 → d.d3 = 0xC0#8)

/-- R115: total on the domain; every byte is one of the eleven of `SEG`, with bit 7 set. -/
def Obligations.EncodeTotalFromSeg : Prop :=
  ∀ n : Word16, n.toNat ≤ 9999 →
    ∃ d, encodeValue n = some d ∧ ∀ p : Fin 4, d.get p ∈ segTable ∧ (d.get p).getLsbD 7 = true

/-- R116: injective; the number of blanks by range; the blanks leftmost. -/
def Obligations.EncodeInjective : Prop :=
  (∀ (n m : Word16) (d : Digits), encodeValue n = some d → encodeValue m = some d → n = m) ∧
  ∀ (n : Word16) (d : Digits), encodeValue n = some d →
    [d.d0, d.d1, d.d2, d.d3].count 0xFF#8 =
      (if n.toNat ≤ 9 then 3 else if n.toNat ≤ 99 then 2 else if n.toNat ≤ 999 then 1 else 0) ∧
    (d.d1 = 0xFF#8 → d.d0 = 0xFF#8) ∧ (d.d2 = 0xFF#8 → d.d1 = 0xFF#8) ∧ d.d3 ≠ 0xFF#8

/-- R113, U1: outside `0 .. 9999` `ENCODE` has no value. `ENCODE`, `do_set_value`, and the enable transition with such a
stored value are refused by name (log 11). -/
def Obligations.EncodeDomainStops : Prop :=
  (∀ (n : Word16) (s : State), 9999 < n.toNat →
    exec (.encodeDigits n) s = .refused .encodeOutOfDomain ∧ exec (.doSetValue n) s = .refused .encodeOutOfDomain) ∧
  ∀ (a : CmdArgs) (s : State), s.enabled = false → s.valueValid = true → 9999 < s.value.toNat →
    exec .doEnable s = .refused .encodeOutOfDomain ∧ exec (.enable a) s = .refused .encodeOutOfDomain

/-! ### The Shift-Register Output -/

/-- R130, R141: a pin operation is always recorded and drives one pin. A CLOCK rising edge shifts DATA into the load, a LATCH
rising edge publishes; nothing else changes the load. The load's registers are the spec's own aid (D15). -/
def Obligations.PinOpDrivesOnePin : Prop :=
  ∀ (s : State) (l : Bool),
    exec (.pinOp .latch l) s = .next { s with
      pinTrace := s.pinTrace ++ [⟨.latch, l⟩], latch := l, out := if l && !s.latch then s.sr else s.out } ∧
    exec (.pinOp .clock l) s = .next { s with
      pinTrace := s.pinTrace ++ [⟨.clock, l⟩], clock := l
      sr := if l && !s.clock then s.sr.extractLsb' 0 15 ++ BitVec.ofBool s.data else s.sr } ∧
    exec (.pinOp .data l) s = .next { s with pinTrace := s.pinTrace ++ [⟨.data, l⟩], data := l }

/-- R131: `SHIFT_BYTE(v)` appends its 24 operations (8 on DATA, 16 on CLOCK), leaves `CLOCK = 0` and `DATA = v[0]`; eight
bits reach the load, or seven when CLOCK was high on entry. The load's registers are the spec's own aid (D15). -/
def Obligations.ShiftByteClocksEightBits : Prop :=
  ∀ (s : State) (v : Byte),
    exec (.shiftByte v) s = .next { s with
      pinTrace := s.pinTrace ++ byteWrites v, clock := false, data := v.getLsbD 0, sr := srAfterByte s.clock s.sr v } ∧
    (byteWrites v).length = 24 ∧
    writesOf .data true (byteWrites v) + writesOf .data false (byteWrites v) = 8 ∧
    writesOf .clock true (byteWrites v) = 8 ∧ writesOf .clock false (byteWrites v) = 8 ∧
    risingEdges .clock s.clock (byteWrites v) = if s.clock then 7 else 8

/-- R132: `EMIT_FRAME(seg, sel)` appends `L0`, the two bytes, `L1`, and changes only the pin levels (and the load).
The load's registers are the spec's own aid (D15). -/
def Obligations.EmitFrameActs : Prop :=
  ∀ (s : State) (seg sel : Byte),
    exec (.emitFrame seg sel) s = .next { s with
      pinTrace := s.pinTrace ++ frameWrites seg sel, latch := true, clock := false, data := sel.getLsbD 0
      sr := loadAfterFrame s.clock s.sr seg sel, out := loadAfterFrame s.clock s.sr seg sel }

/-- R135, R87: a frame is 50 operations whatever the data, 2 on LATCH, 32 on CLOCK, 16 on DATA; operation 0 is `L0`, operation
49 `L1`, and operations `1+3j`, `2+3j`, `3+3j` are `D<F[15-j]>`, `C1`, `C0`. A scan is 200 operations. -/
def Obligations.FrameOperationsInOrder : Prop :=
  ∀ (s : State) (seg sel : Byte),
    (∃ t ws, exec (.emitFrame seg sel) s = .next t ∧ t.pinTrace = s.pinTrace ++ ws ∧ ws.length = 50 ∧
      writesOf .latch false ws = 1 ∧ writesOf .latch true ws = 1 ∧
      writesOf .clock false ws = 16 ∧ writesOf .clock true ws = 16 ∧
      writesOf .data false ws + writesOf .data true ws = 16 ∧
      ws[0]? = some ⟨.latch, false⟩ ∧ ws[49]? = some ⟨.latch, true⟩ ∧
      ∀ j, j < 16 → ws[1 + 3 * j]? = some ⟨.data, (frameWord seg sel).getLsbD (15 - j)⟩ ∧
        ws[2 + 3 * j]? = some ⟨.clock, true⟩ ∧ ws[3 + 3 * j]? = some ⟨.clock, false⟩) ∧
    ∃ t ws, exec .scan s = .next t ∧ t.pinTrace = s.pinTrace ++ ws ∧ ws.length = 200

/-- R136 (P6): a frame entered with `CLOCK = 0` and `LATCH = 1` makes 16 CLOCK rising and 16 falling edges, one LATCH falling edge
at its start and one rising edge at its end; DATA is written only while CLOCK is low; the number of DATA edges is the
number of changes along `DATA_on_entry, F[15], …, F[0]`. -/
def Obligations.FrameEdges : Prop :=
  ∀ (s : State) (seg sel : Byte), s.clock = false → s.latch = true →
    ∃ t ws, exec (.emitFrame seg sel) s = .next t ∧ t.pinTrace = s.pinTrace ++ ws ∧
      risingEdges .clock s.clock ws = 16 ∧ fallingEdges .clock s.clock ws = 16 ∧
      risingEdges .latch s.latch ws = 1 ∧ fallingEdges .latch s.latch ws = 1 ∧
      ws.head? = some ⟨.latch, false⟩ ∧ ws.getLast? = some ⟨.latch, true⟩ ∧
      (∀ i b, ws[i]? = some ⟨.data, b⟩ → levelAfter .clock s.clock (ws.take i) = false) ∧
      risingEdges .data s.data ws + fallingEdges .data s.data ws =
        (List.range 16).countP fun j =>
          (if j = 0 then s.data else (frameWord seg sel).getLsbD (16 - j)) != (frameWord seg sel).getLsbD (15 - j)

/-- R139: whatever the levels on entry the operations are the same; entered with `CLOCK = 1` the frame has 15 CLOCK rising
edges, entered with `LATCH = 0` no LATCH falling edge; the LATCH rising edge always occurs. -/
def Obligations.FirstFrameEdges : Prop :=
  ∀ (s : State) (seg sel : Byte),
    ∃ t, exec (.emitFrame seg sel) s = .next t ∧ t.pinTrace = s.pinTrace ++ frameWrites seg sel ∧
      risingEdges .clock s.clock (frameWrites seg sel) = (if s.clock then 15 else 16) ∧
      fallingEdges .latch s.latch (frameWrites seg sel) = (if s.latch then 1 else 0) ∧
      risingEdges .latch s.latch (frameWrites seg sel) = 1

/-- R142: entered with `CLOCK = 0` the frame leaves `SR = OUT = {seg, sel}`; entered with `CLOCK = 1`, `{SR[0], seg[6:0], sel}`;
`OUT` keeps its value through the first 49 of the frame's 50 operations. The load's registers are the spec's own aid (D15). -/
def Obligations.FrameReachesLoad : Prop :=
  ∀ (s : State) (seg sel : Byte),
    (∃ t, exec (.emitFrame seg sel) s = .next t ∧ t.sr = t.out ∧
      (s.clock = false → t.out = seg ++ sel) ∧
      (s.clock = true → t.out = BitVec.ofBool (s.sr.getLsbD 0) ++ (seg.extractLsb' 0 7 ++ sel))) ∧
    exec (.emitFrame seg sel) s = .next (s.pinOps (frameWrites seg sel)) ∧
    ∀ k, k ≤ 49 → (s.pinOps ((frameWrites seg sel).take k)).out = s.out

/-- R133: `SCAN` emits the frames of positions 0, 1, 2, 3 with the masks `0xF1, 0xF2, 0xF4, 0xF8`, blank positions like any
other, and writes only pin levels; the load ends with position 3's frame (R140). The order is D10, the load's registers D15. -/
def Obligations.ScanEmitsFourFrames : Prop :=
  ∀ s : State,
    exec .scan s = .next { s with
      pinTrace := s.pinTrace ++ frameWrites s.digits.d0 0xF1#8 ++ frameWrites s.digits.d1 0xF2#8 ++
        frameWrites s.digits.d2 0xF4#8 ++ frameWrites s.digits.d3 0xF8#8
      latch := true, clock := false, data := false, sr := s.digits.d3 ++ 0xF8#8, out := s.digits.d3 ++ 0xF8#8 }

/-- R134: `BLANK_FRAME` is `EMIT_FRAME(0xFF, 0xF1)`; `digits` are not changed.
The load's registers are the spec's own aid (D15). -/
def Obligations.BlankFrameActs : Prop :=
  ∀ s : State,
    exec .blankFrame s = .next { s with
      pinTrace := s.pinTrace ++ frameWrites 0xFF#8 0xF1#8, latch := true, clock := false, data := true
      sr := loadAfterFrame s.clock s.sr 0xFF#8 0xF1#8, out := loadAfterFrame s.clock s.sr 0xFF#8 0xF1#8 }

/-! ### The alarm unit and the events -/

/-- R151 to R154: the four alarm calls. `now()` hands the counter to its caller (log 10).
The registers behind the calls are the spec's own realisation (D8, D11). -/
def Obligations.AlarmCallsAct : Prop :=
  ∀ (s : State) (u : Nat),
    exec .alarmNow s = .next { s with
      alarmTrace := s.alarmTrace ++ [.now s.now], returns := s.returns ++ [.tick s.now] } ∧
    exec (.setAlarm u) s = .next { s with alarmTrace := s.alarmTrace ++ [.setAlarm u], cmp := u, pending := false } ∧
    exec .alarmEnable s = .next { s with alarmTrace := s.alarmTrace ++ [.enable], armed := true } ∧
    exec .alarmDisable s = .next { s with alarmTrace := s.alarmTrace ++ [.disable], armed := false, pending := false }

/-- R156: `TICK`, in every state, adds 1 modulo `2^W_TICK`; `pending` is set when the alarm is armed and the new value equals
`cmp`, and otherwise stays. `TICK` and the match by equality are the spec's own realisation (D11, D12). -/
def Obligations.TickAdvances : Prop :=
  ∀ s : State,
    exec .tick s = .next { s with
      now := (s.now + 1) % 2 ^ s.cfg.wTick
      pending := s.pending || (s.armed && decide ((s.now + 1) % 2 ^ s.cfg.wTick = s.cmp)) }

/-- R162: a pending `FIRED` clears `pending`, emits one scan, then reads the counter and schedules `PERIOD` ticks after it.
The scan's order is D10, the compare register D11, the load's registers D15. -/
def Obligations.FiredScansAndReschedules : Prop :=
  ∀ s : State, s.pending = true →
    exec .fired s = .next { s with
      pending := false
      pinTrace := s.pinTrace ++ scanWrites s.digits, latch := true, clock := false, data := false
      sr := s.digits.d3 ++ 0xF8#8, out := s.digits.d3 ++ 0xF8#8
      alarmTrace := s.alarmTrace ++ [.now s.now, .setAlarm ((s.now + s.cfg.freq / 8000) % 2 ^ s.cfg.wTick)]
      cmp := (s.now + s.cfg.freq / 8000) % 2 ^ s.cfg.wTick }

/-- R157: `FIRED` can be taken exactly when `pending = 1` (otherwise the machine is stuck under a name); a `TICK` in between
leaves a pending firing pending; a `DISABLE` taken while Enabled cancels it.
The precondition and the cancelling are the spec's own choices (D8); the fault's name is log 12. -/
def Obligations.FiredExactlyWhenPending : Prop :=
  ∀ s : State,
    ((∃ t, exec .fired s = .next t) ↔ s.pending = true) ∧
    (s.pending = false → exec .fired s = .fault .firedNotPending) ∧
    (s.pending = true → ∃ t, exec .tick s = .next t ∧ t.pending = true) ∧
    ∀ a, s.enabled = true → ∃ t, exec (.disable a) s = .next t ∧ exec .fired t = .fault .firedNotPending

/-- R169: every `FIRED` emits all four digits, one full scan: exactly 200 pin operations, 4 LATCH pulses and 64 CLOCK pulses.
That the scan goes through positions 0, 1, 2, 3 in this order is the spec's own choice (R133, D10; log 14). -/
def Obligations.OneScanPerFire : Prop :=
  ∀ s : State, s.pending = true →
    ∃ t ws, exec .fired s = .next t ∧ t.pinTrace = s.pinTrace ++ ws ∧
      ws = frameWrites s.digits.d0 0xF1#8 ++ frameWrites s.digits.d1 0xF2#8 ++
        frameWrites s.digits.d2 0xF4#8 ++ frameWrites s.digits.d3 0xF8#8 ∧
      ws.length = 200 ∧ writesOf .latch false ws = 4 ∧ writesOf .latch true ws = 4 ∧
      writesOf .clock true ws = 64 ∧ writesOf .clock false ws = 64

/-- R156, R247: with the alarm armed for `now +w PERIOD`, `k` ticks leave it pending exactly when `k` has reached `PERIOD`,
across any wrap of the counter, and change nothing else.
`TICK` and the match by equality are the spec's own realisation (D11, D12). -/
def Obligations.AlarmReachedAfterPeriod : Prop :=
  ∀ (s : State) (k : Nat) (q : List Input),
    s.armed = true → s.pending = false → s.now < 2 ^ s.cfg.wTick →
    s.cmp = (s.now + s.cfg.freq / 8000) % 2 ^ s.cfg.wTick →
    s.queue = List.replicate k ⟨.counter, []⟩ ++ q →
    Sys2Proof.core.run k s = .next { s with
      now := (s.now + k) % 2 ^ s.cfg.wTick, pending := decide (s.cfg.freq / 8000 ≤ k), queue := q }

/-! ### The transitions -/

/-- R159, R164, R163: `do_enable`. From Disabled with a value the digits are recomputed; with none they stay; then the alarm is
scheduled and enabled. While Enabled nothing happens. The case Enabled is D7, the alarm's registers D11. -/
def Obligations.DoEnableActs : Prop :=
  ∀ s : State,
    (s.enabled = false → s.valueValid = true → s.value.toNat ≤ 9999 →
      ∃ d, encodeValue s.value = some d ∧ exec .doEnable s = .next { s with
        digits := d, enabled := true, armed := true, pending := false
        cmp := (s.now + s.cfg.freq / 8000) % 2 ^ s.cfg.wTick
        alarmTrace := s.alarmTrace ++
          [.now s.now, .setAlarm ((s.now + s.cfg.freq / 8000) % 2 ^ s.cfg.wTick), .enable] }) ∧
    (s.enabled = false → s.valueValid = false → exec .doEnable s = .next { s with
        enabled := true, armed := true, pending := false
        cmp := (s.now + s.cfg.freq / 8000) % 2 ^ s.cfg.wTick
        alarmTrace := s.alarmTrace ++
          [.now s.now, .setAlarm ((s.now + s.cfg.freq / 8000) % 2 ^ s.cfg.wTick), .enable] }) ∧
    (s.enabled = true → exec .doEnable s = .next s)

/-- R160, R163: `do_disable`. From Enabled the alarm is disabled and one blank frame emitted; while Disabled nothing happens.
The case Disabled is D7, the cancelling D8, the load's registers D15. -/
def Obligations.DoDisableActs : Prop :=
  ∀ s : State,
    (s.enabled = true → exec .doDisable s = .next { s with
      enabled := false, armed := false, pending := false
      alarmTrace := s.alarmTrace ++ [.disable]
      pinTrace := s.pinTrace ++ frameWrites 0xFF#8 0xF1#8, latch := true, clock := false, data := true
      sr := loadAfterFrame s.clock s.sr 0xFF#8 0xF1#8, out := loadAfterFrame s.clock s.sr 0xFF#8 0xF1#8 }) ∧
    (s.enabled = false → exec .doDisable s = .next s)

/-- R161: `do_set_value(N)` for `N <= 9999` stores the value; `digits` are recomputed while Enabled and left alone while
Disabled. -/
def Obligations.DoSetValueActs : Prop :=
  ∀ (s : State) (n : Word16), n.toNat ≤ 9999 →
    (s.enabled = false → exec (.doSetValue n) s = .next { s with valueValid := true, value := n }) ∧
    (s.enabled = true → ∃ d, encodeValue n = some d ∧
      exec (.doSetValue n) s = .next { s with valueValid := true, value := n, digits := d })

/-! ### The commands -/

/-- R192, R196, R199: `PROBE` and `UNSUPPORTED` change nothing but the return code they hand back, for any operands. -/
def Obligations.ProbeAndUnsupportedOnlyAnswer : Prop :=
  ∀ (s : State) (a : CmdArgs) (k : Nat),
    exec (.probe a) s = .next { s with returns := s.returns ++ [.code .success] } ∧
    exec (.unsupported k a) s = .next { s with returns := s.returns ++ [.code .notSupported] }

/-- R193: `ENABLE` does what `do_enable` does and returns `Success`, with a value, without one, and while Enabled.
The case Enabled is D7, the alarm's registers D11. -/
def Obligations.EnableCommandActs : Prop :=
  ∀ (s : State) (a : CmdArgs),
    (s.enabled = false → s.valueValid = true → s.value.toNat ≤ 9999 →
      ∃ d, encodeValue s.value = some d ∧ exec (.enable a) s = .next { s with
        digits := d, enabled := true, armed := true, pending := false
        cmp := (s.now + s.cfg.freq / 8000) % 2 ^ s.cfg.wTick
        alarmTrace := s.alarmTrace ++
          [.now s.now, .setAlarm ((s.now + s.cfg.freq / 8000) % 2 ^ s.cfg.wTick), .enable]
        returns := s.returns ++ [.code .success] }) ∧
    (s.enabled = false → s.valueValid = false → exec (.enable a) s = .next { s with
        enabled := true, armed := true, pending := false
        cmp := (s.now + s.cfg.freq / 8000) % 2 ^ s.cfg.wTick
        alarmTrace := s.alarmTrace ++
          [.now s.now, .setAlarm ((s.now + s.cfg.freq / 8000) % 2 ^ s.cfg.wTick), .enable]
        returns := s.returns ++ [.code .success] }) ∧
    (s.enabled = true → exec (.enable a) s = .next { s with returns := s.returns ++ [.code .success] })

/-- R194: `DISABLE` from Enabled disables the alarm, emits exactly one frame `0xFFF1` and returns `Success`; while Disabled it
only returns `Success`. The case Disabled is D7, the cancelling D8, the load's registers D15. -/
def Obligations.DisableCommandActs : Prop :=
  ∀ (s : State) (a : CmdArgs),
    (s.enabled = true → exec (.disable a) s = .next { s with
      enabled := false, armed := false, pending := false
      alarmTrace := s.alarmTrace ++ [.disable]
      pinTrace := s.pinTrace ++ frameWrites 0xFF#8 0xF1#8, latch := true, clock := false, data := true
      sr := loadAfterFrame s.clock s.sr 0xFF#8 0xF1#8, out := loadAfterFrame s.clock s.sr 0xFF#8 0xF1#8
      returns := s.returns ++ [.code .success] }) ∧
    (s.enabled = false → exec (.disable a) s = .next { s with returns := s.returns ++ [.code .success] })

/-- R195, R84: `SETVALUE` takes `N = data1 mod 2^16`, tests it after the truncation, refuses `N > 9999` with `NotSupported`
and no other change, and otherwise stores it, recomputing `digits` while Enabled.
The refusal above 9999 is the spec's own choice (D9; log 11). -/
def Obligations.SetValueCommandActs : Prop :=
  ∀ (s : State) (a : CmdArgs),
    (9999 < a.data1 % 2 ^ 16 →
      exec (.setValue a) s = .next { s with returns := s.returns ++ [.code .notSupported] }) ∧
    (a.data1 % 2 ^ 16 ≤ 9999 → s.enabled = false →
      exec (.setValue a) s = .next { s with
        valueValid := true, value := BitVec.ofNat 16 (a.data1 % 2 ^ 16), returns := s.returns ++ [.code .success] }) ∧
    (a.data1 % 2 ^ 16 ≤ 9999 → s.enabled = true →
      ∃ d, encodeValue (BitVec.ofNat 16 (a.data1 % 2 ^ 16)) = some d ∧
        exec (.setValue a) s = .next { s with
          valueValid := true, value := BitVec.ofNat 16 (a.data1 % 2 ^ 16), digits := d
          returns := s.returns ++ [.code .success] })

/-- R200: every command tuple, in every state whose stored value is in the domain (R37), has an outcome, and its return code is
the table's function of `cmd_num` and `data1[15:0]` alone. The row for values above 9999 is D9. -/
def Obligations.EveryCommandAnswered : Prop :=
  ∀ (s : State) (k d1 d2 app : Nat),
    (s.valueValid = true → s.value.toNat ≤ 9999) →
    k < 2 ^ s.cfg.wWord → d1 < 2 ^ s.cfg.wWord → d2 < 2 ^ s.cfg.wWord →
    ∃ i t, decode s.cfg ⟨.syscall 0xB0000000, [k, d1, d2, app]⟩ = .ok i ∧ exec i s = .next t ∧
      t.returns = s.returns ++
        [.code (if k ≤ 2 ∨ (k = 3 ∧ d1 % 2 ^ 16 ≤ 9999) then .success else .notSupported)]

/-- R63: `SETVALUE`, `ENABLE` and `DISABLE` issued twice leave the same state as once, but for the second return code.
That a repeat has no effect is D7. -/
def Obligations.CommandsIdempotent : Prop :=
  ∀ (s t : State) (a : CmdArgs) (i : Instr), i = .setValue a ∨ i = .enable a ∨ i = .disable a →
    exec i s = .next t → ∃ rc, exec i t = .next { t with returns := t.returns ++ [.code rc] }

/-- R167 (P3): `SETVALUE N` followed by `ENABLE`, from any state, leaves `digits = ENCODE(N)`. -/
def Obligations.SetValueThenEnableShowsValue : Prop :=
  ∀ (s : State) (a b : CmdArgs), a.data1 % 2 ^ 16 ≤ 9999 →
    ∃ t u, exec (.setValue a) s = .next t ∧ exec (.enable b) t = .next u ∧
      encodeValue (BitVec.ofNat 16 (a.data1 % 2 ^ 16)) = some u.digits

/-! ### Whole-machine rules -/

/-- R41: the writer table. A register changed by an operation of the three agents was changed by one of its writers, in the
state its row names; `PROBE` and `UNSUPPORTED` write nothing. R41 names the block's own registers only. That the load's `SR`
and `OUT` change only with the pins is the spec's own aid (R32, R141, D15; log 13); that the parameters have no writer is R30
with the model's place for them (log 3); the schedule, which no operation writes, is the model's (log 1), and so is the
choice of the three agents' operations among the constructors (R7, log 8). -/
def Obligations.WriterTable : Prop :=
  ∀ (i : Instr) (s t : State), i.external = true → exec i s = .next t →
    (t.valueValid ≠ s.valueValid ∨ t.value ≠ s.value → ∃ a, i = .setValue a) ∧
    (t.digits ≠ s.digits →
      (∃ a, i = .enable a ∧ s.enabled = false ∧ s.valueValid = true) ∨ (∃ a, i = .setValue a ∧ s.enabled = true)) ∧
    (t.enabled ≠ s.enabled → (∃ a, i = .enable a) ∨ (∃ a, i = .disable a)) ∧
    (t.latch ≠ s.latch ∨ t.clock ≠ s.clock ∨ t.data ≠ s.data ∨ t.pinTrace ≠ s.pinTrace ∨ t.sr ≠ s.sr ∨ t.out ≠ s.out →
      i = .fired ∨ (∃ a, i = .disable a ∧ s.enabled = true)) ∧
    (t.cmp ≠ s.cmp → (∃ a, i = .enable a ∧ s.enabled = false) ∨ i = .fired) ∧
    (t.armed ≠ s.armed → (∃ a, i = .enable a) ∨ (∃ a, i = .disable a)) ∧
    (t.pending = true → s.pending = false → i = .tick) ∧
    (t.pending = false → s.pending = true → i = .fired ∨ (∃ a, i = .enable a) ∨ (∃ a, i = .disable a)) ∧
    (t.now ≠ s.now → i = .tick) ∧
    t.cfg = s.cfg ∧ t.queue = s.queue

/-- R33, R65: both traces are append-only, whatever operation runs (and so are the returned values, log 10).
That the traces are state is D20. -/
def Obligations.TracesOnlyGrow : Prop :=
  ∀ (i : Instr) (s t : State), exec i s = .next t →
    (∃ ws, t.pinTrace = s.pinTrace ++ ws) ∧ (∃ cs, t.alarmTrace = s.alarmTrace ++ cs) ∧
    (∃ rs, t.returns = s.returns ++ rs)

/-- R21: once present a value is never absent again. -/
def Obligations.ValueStaysPresent : Prop :=
  ∀ (s t : State), s.valueValid = true → step s = .next t → t.valueValid = true

/-- R42: the block never halts. From every state of the invariant, a step whose operation is enabled (`FIRED` only when
pending, R157) goes on. With nothing scheduled the counter acts (log 2). -/
def Obligations.BlockNeverHalts : Prop :=
  ∀ s : State, Inv s →
    (s.queue = [] → ∃ t, step s = .next t) ∧
    ∀ inp rest i, s.queue = inp :: rest → decode s.cfg inp = .ok i → (i = .fired → s.pending = true) →
      ∃ t, step s = .next t

/-- R217: the order of a waiting command and a pending firing is observable. `DISABLE` first cancels the scan; `FIRED` first
emits it, before the blank frame; `SETVALUE` first makes that scan show the new value.
The cancelling is D8, the free order D19. -/
def Obligations.OrderIsObservable : Prop :=
  ∀ (s : State) (a : CmdArgs), s.enabled = true → s.pending = true →
    (∃ t, exec (.disable a) s = .next t ∧ t.pinTrace = s.pinTrace ++ frameWrites 0xFF#8 0xF1#8 ∧
      exec .fired t = .fault .firedNotPending) ∧
    (∃ t u, exec .fired s = .next t ∧ exec (.disable a) t = .next u ∧
      u.pinTrace = s.pinTrace ++ scanWrites s.digits ++ frameWrites 0xFF#8 0xF1#8) ∧
    (a.data1 % 2 ^ 16 ≤ 9999 → ∃ d t u, encodeValue (BitVec.ofNat 16 (a.data1 % 2 ^ 16)) = some d ∧
      exec (.setValue a) s = .next t ∧ exec .fired t = .next u ∧ u.pinTrace = s.pinTrace ++ scanWrites d)

/-- R36 with R162, R38: in the states of the invariant, a firing shows the stored value, and four blank positions when there
is none. -/
def Obligations.FiringShowsStoredValue : Prop :=
  ∀ s : State, Inv s → s.pending = true →
    (s.valueValid = true → ∃ d t, encodeValue s.value = some d ∧ exec .fired s = .next t ∧
      t.pinTrace = s.pinTrace ++ scanWrites d) ∧
    (s.valueValid = false → ∃ t, exec .fired s = .next t ∧
      t.pinTrace = s.pinTrace ++ frameWrites 0xFF#8 0xF1#8 ++ frameWrites 0xFF#8 0xF2#8 ++
        frameWrites 0xFF#8 0xF4#8 ++ frameWrites 0xFF#8 0xF8#8)

/-- The invariant holds after construction, for every admissible configuration and every draw of the registers' widths, and
so at the model's reset (logs 4, 5). -/
def Obligations.InvariantAtReset : Prop :=
  (∀ (c : Config) (d : ResetDraws), d.InRange c → Inv (State.resetWith c d)) ∧ Inv State.reset

/-- R35 to R40, R166, R246: every step keeps the invariant. -/
def Obligations.InvariantKept : Prop :=
  ∀ s t : State, Inv s → step s = .next t → Inv t

/-- R165 (P1): a `DISABLE` leaves the display Disabled, the alarm off, nothing pending, `FIRED` not enabled, and toggles no pin
but by the one blank frame of the off-command; and from such a state no run without `ENABLE` makes a pin operation or an
alarm call. That a `DISABLE` while Disabled emits no frame and makes no alarm call is the spec's own choice (R163, D7; log 14);
that `FIRED` then has no step is D8, and the name of the stuck state is log 12. R165 speaks of pin toggles; that there is no
alarm call either follows from R156, R161 and R163. Which operations a run takes is log 1. -/
def Obligations.DisabledIsSilent : Prop :=
  (∀ (s : State) (a : CmdArgs), Inv s →
    ∃ t, exec (.disable a) s = .next t ∧ t.enabled = false ∧ t.armed = false ∧ t.pending = false ∧
      exec .fired t = .fault .firedNotPending ∧
      t.pinTrace = s.pinTrace ++ (if s.enabled then frameWrites 0xFF#8 0xF1#8 else [])) ∧
  ∀ (k : Nat) (s t : State), Inv s → s.enabled = false → (∀ inp ∈ s.queue, inp.isEnable = false) →
    Sys2Proof.core.run k s = .next t →
    t.enabled = false ∧ t.armed = false ∧ t.pending = false ∧
      t.pinTrace = s.pinTrace ∧ t.alarmTrace = s.alarmTrace

/-- R166 (P2): a step from a state of the invariant leaves the alarm trace a concatenation of the blocks of an `ENABLE`, a
`FIRED` and a `DISABLE`; every `set_alarm(u)` is immediately preceded by a `now()=t` with `u = t +w PERIOD`; `enable()` and
`disable()` alternate, starting with `enable()`; while Enabled the alarm is armed. The step itself appends nothing, or the
one block of a change to Enabled, of a firing while Enabled, or of a change to Disabled. That a repeated command appends
nothing is the spec's own choice (D7; log 14); which operation the step takes is log 1. -/
def Obligations.AlarmTraceWellShaped : Prop :=
  ∀ s t : State, Inv s → step s = .next t →
    (∀ before u after, t.alarmTrace = before ++ .setAlarm u :: after →
      ∃ before' v, before = before' ++ [.now v] ∧ u = (v + t.cfg.freq / 8000) % 2 ^ t.cfg.wTick) ∧
    (∃ blocks : List (List AlarmCall), t.alarmTrace = blocks.flatten ∧ ∀ b ∈ blocks,
      (∃ v, b = [.now v, .setAlarm ((v + t.cfg.freq / 8000) % 2 ^ t.cfg.wTick), .enable]) ∨
      (∃ v, b = [.now v, .setAlarm ((v + t.cfg.freq / 8000) % 2 ^ t.cfg.wTick)]) ∨ b = [.disable]) ∧
    (∀ i c, (t.alarmTrace.filter fun x => x = .enable ∨ x = .disable)[i]? = some c →
      c = if i % 2 = 0 then .enable else .disable) ∧
    (t.enabled = true → t.armed = true) ∧
    ((t.alarmTrace = s.alarmTrace ∧ t.enabled = s.enabled) ∨
      (t.alarmTrace = s.alarmTrace ++
          [.now s.now, .setAlarm ((s.now + s.cfg.freq / 8000) % 2 ^ s.cfg.wTick), .enable] ∧
        s.enabled = false ∧ t.enabled = true) ∨
      (t.alarmTrace = s.alarmTrace ++ [.now s.now, .setAlarm ((s.now + s.cfg.freq / 8000) % 2 ^ s.cfg.wTick)] ∧
        s.enabled = true ∧ t.enabled = true) ∨
      (t.alarmTrace = s.alarmTrace ++ [.disable] ∧ s.enabled = true ∧ t.enabled = false))

/-- R85, R84, R197: two schedules that differ at most in ignored operands (`data2`, `app_id`, and `data1` but for the low 16
bits of `SETVALUE`'s, R84) give runs that agree on everything but the schedule left over. That `app_id` is not examined is
the spec's own choice (R197, D18; log 14); the schedule is the model's (log 1). -/
def Obligations.IgnoredOperandsDoNotMatter : Prop :=
  ∀ (k : Nat) (s t : State) (q : List Input), SchedulesAlike s.cfg s.queue q → Sys2Proof.core.run k s = .next t →
    ∃ q', SchedulesAlike s.cfg t.queue q' ∧ Sys2Proof.core.run k { s with queue := q } = .next { t with queue := q' }

/-- R86, R134, with the model's frame port (log 9): under every configuration, a frame word `{seg, sel}` of 16 bits other than
`0xFFF1` decodes to `EMIT_FRAME` of its high byte and its low byte, and `0xFFF1` to `BLANK_FRAME`; a wider word, no word and
more than one word are refused by name. The table's numbering of a 16-bit row reads the same. -/
def Obligations.FrameWordsDecode : Prop :=
  ∀ (c : Config) (w : Nat),
    (w < 2 ^ 16 → w ≠ 0xFFF1 →
      decode c ⟨.frame, [w]⟩ =
        .ok (.emitFrame ((BitVec.ofNat 16 w).extractLsb' 8 8) ((BitVec.ofNat 16 w).extractLsb' 0 8)) ∧
      decodeTableWord 16 w =
        some (.emitFrame ((BitVec.ofNat 16 w).extractLsb' 8 8) ((BitVec.ofNat 16 w).extractLsb' 0 8))) ∧
    decode c ⟨.frame, [0xFFF1]⟩ = .ok .blankFrame ∧ decodeTableWord 16 0xFFF1 = some .blankFrame ∧
    (2 ^ 16 ≤ w → decode c ⟨.frame, [w]⟩ = .error .operandTooWide) ∧
    decode c ⟨.frame, []⟩ = .error .wrongOperandCount ∧
    ∀ v rest, decode c ⟨.frame, w :: v :: rest⟩ = .error .wrongOperandCount
end

