-- ==== Sys2Proof/Laws/State.lean ====
section
/-! SUPPORT. One lemma per field per update: what each shared operation leaves in each field of State. -/

namespace Sys2Proof.Machine

variable (s : State)

@[simp] theorem State.pinOp_cfg (p : Pin) (l : Bool) : (s.pinOp p l).cfg = s.cfg := rfl
@[simp] theorem State.pinOp_valueValid (p : Pin) (l : Bool) : (s.pinOp p l).valueValid = s.valueValid := rfl
@[simp] theorem State.pinOp_value (p : Pin) (l : Bool) : (s.pinOp p l).value = s.value := rfl
@[simp] theorem State.pinOp_digits (p : Pin) (l : Bool) : (s.pinOp p l).digits = s.digits := rfl
@[simp] theorem State.pinOp_enabled (p : Pin) (l : Bool) : (s.pinOp p l).enabled = s.enabled := rfl
@[simp] theorem State.pinOp_latch (p : Pin) (l : Bool) : (s.pinOp p l).latch = if p = .latch then l else s.latch := rfl
@[simp] theorem State.pinOp_clock (p : Pin) (l : Bool) : (s.pinOp p l).clock = if p = .clock then l else s.clock := rfl
@[simp] theorem State.pinOp_data (p : Pin) (l : Bool) : (s.pinOp p l).data = if p = .data then l else s.data := rfl
@[simp] theorem State.pinOp_now (p : Pin) (l : Bool) : (s.pinOp p l).now = s.now := rfl
@[simp] theorem State.pinOp_cmp (p : Pin) (l : Bool) : (s.pinOp p l).cmp = s.cmp := rfl
@[simp] theorem State.pinOp_armed (p : Pin) (l : Bool) : (s.pinOp p l).armed = s.armed := rfl
@[simp] theorem State.pinOp_pending (p : Pin) (l : Bool) : (s.pinOp p l).pending = s.pending := rfl
@[simp] theorem State.pinOp_pinTrace (p : Pin) (l : Bool) : (s.pinOp p l).pinTrace = s.pinTrace ++ [⟨p, l⟩] := rfl
@[simp] theorem State.pinOp_alarmTrace (p : Pin) (l : Bool) : (s.pinOp p l).alarmTrace = s.alarmTrace := rfl
@[simp] theorem State.pinOp_sr (p : Pin) (l : Bool) : (s.pinOp p l).sr = if p = .clock ∧ l = true ∧ s.clock = false then shiftIn s.sr s.data else s.sr := rfl
@[simp] theorem State.pinOp_out (p : Pin) (l : Bool) : (s.pinOp p l).out = if p = .latch ∧ l = true ∧ s.latch = false then s.sr else s.out := rfl
@[simp] theorem State.pinOp_returns (p : Pin) (l : Bool) : (s.pinOp p l).returns = s.returns := rfl
@[simp] theorem State.pinOp_queue (p : Pin) (l : Bool) : (s.pinOp p l).queue = s.queue := rfl

@[simp] theorem State.callNow_cfg : (s.callNow).cfg = s.cfg := rfl
@[simp] theorem State.callNow_valueValid : (s.callNow).valueValid = s.valueValid := rfl
@[simp] theorem State.callNow_value : (s.callNow).value = s.value := rfl
@[simp] theorem State.callNow_digits : (s.callNow).digits = s.digits := rfl
@[simp] theorem State.callNow_enabled : (s.callNow).enabled = s.enabled := rfl
@[simp] theorem State.callNow_latch : (s.callNow).latch = s.latch := rfl
@[simp] theorem State.callNow_clock : (s.callNow).clock = s.clock := rfl
@[simp] theorem State.callNow_data : (s.callNow).data = s.data := rfl
@[simp] theorem State.callNow_now : (s.callNow).now = s.now := rfl
@[simp] theorem State.callNow_cmp : (s.callNow).cmp = s.cmp := rfl
@[simp] theorem State.callNow_armed : (s.callNow).armed = s.armed := rfl
@[simp] theorem State.callNow_pending : (s.callNow).pending = s.pending := rfl
@[simp] theorem State.callNow_pinTrace : (s.callNow).pinTrace = s.pinTrace := rfl
@[simp] theorem State.callNow_alarmTrace : (s.callNow).alarmTrace = s.alarmTrace ++ [.now s.now] := rfl
@[simp] theorem State.callNow_sr : (s.callNow).sr = s.sr := rfl
@[simp] theorem State.callNow_out : (s.callNow).out = s.out := rfl
@[simp] theorem State.callNow_returns : (s.callNow).returns = s.returns := rfl
@[simp] theorem State.callNow_queue : (s.callNow).queue = s.queue := rfl

@[simp] theorem State.callSetAlarm_cfg (t : Nat) : (s.callSetAlarm t).cfg = s.cfg := rfl
@[simp] theorem State.callSetAlarm_valueValid (t : Nat) : (s.callSetAlarm t).valueValid = s.valueValid := rfl
@[simp] theorem State.callSetAlarm_value (t : Nat) : (s.callSetAlarm t).value = s.value := rfl
@[simp] theorem State.callSetAlarm_digits (t : Nat) : (s.callSetAlarm t).digits = s.digits := rfl
@[simp] theorem State.callSetAlarm_enabled (t : Nat) : (s.callSetAlarm t).enabled = s.enabled := rfl
@[simp] theorem State.callSetAlarm_latch (t : Nat) : (s.callSetAlarm t).latch = s.latch := rfl
@[simp] theorem State.callSetAlarm_clock (t : Nat) : (s.callSetAlarm t).clock = s.clock := rfl
@[simp] theorem State.callSetAlarm_data (t : Nat) : (s.callSetAlarm t).data = s.data := rfl
@[simp] theorem State.callSetAlarm_now (t : Nat) : (s.callSetAlarm t).now = s.now := rfl
@[simp] theorem State.callSetAlarm_cmp (t : Nat) : (s.callSetAlarm t).cmp = t := rfl
@[simp] theorem State.callSetAlarm_armed (t : Nat) : (s.callSetAlarm t).armed = s.armed := rfl
@[simp] theorem State.callSetAlarm_pending (t : Nat) : (s.callSetAlarm t).pending = false := rfl
@[simp] theorem State.callSetAlarm_pinTrace (t : Nat) : (s.callSetAlarm t).pinTrace = s.pinTrace := rfl
@[simp] theorem State.callSetAlarm_alarmTrace (t : Nat) : (s.callSetAlarm t).alarmTrace = s.alarmTrace ++ [.setAlarm t] := rfl
@[simp] theorem State.callSetAlarm_sr (t : Nat) : (s.callSetAlarm t).sr = s.sr := rfl
@[simp] theorem State.callSetAlarm_out (t : Nat) : (s.callSetAlarm t).out = s.out := rfl
@[simp] theorem State.callSetAlarm_returns (t : Nat) : (s.callSetAlarm t).returns = s.returns := rfl
@[simp] theorem State.callSetAlarm_queue (t : Nat) : (s.callSetAlarm t).queue = s.queue := rfl

@[simp] theorem State.callEnable_cfg : (s.callEnable).cfg = s.cfg := rfl
@[simp] theorem State.callEnable_valueValid : (s.callEnable).valueValid = s.valueValid := rfl
@[simp] theorem State.callEnable_value : (s.callEnable).value = s.value := rfl
@[simp] theorem State.callEnable_digits : (s.callEnable).digits = s.digits := rfl
@[simp] theorem State.callEnable_enabled : (s.callEnable).enabled = s.enabled := rfl
@[simp] theorem State.callEnable_latch : (s.callEnable).latch = s.latch := rfl
@[simp] theorem State.callEnable_clock : (s.callEnable).clock = s.clock := rfl
@[simp] theorem State.callEnable_data : (s.callEnable).data = s.data := rfl
@[simp] theorem State.callEnable_now : (s.callEnable).now = s.now := rfl
@[simp] theorem State.callEnable_cmp : (s.callEnable).cmp = s.cmp := rfl
@[simp] theorem State.callEnable_armed : (s.callEnable).armed = true := rfl
@[simp] theorem State.callEnable_pending : (s.callEnable).pending = s.pending := rfl
@[simp] theorem State.callEnable_pinTrace : (s.callEnable).pinTrace = s.pinTrace := rfl
@[simp] theorem State.callEnable_alarmTrace : (s.callEnable).alarmTrace = s.alarmTrace ++ [.enable] := rfl
@[simp] theorem State.callEnable_sr : (s.callEnable).sr = s.sr := rfl
@[simp] theorem State.callEnable_out : (s.callEnable).out = s.out := rfl
@[simp] theorem State.callEnable_returns : (s.callEnable).returns = s.returns := rfl
@[simp] theorem State.callEnable_queue : (s.callEnable).queue = s.queue := rfl

@[simp] theorem State.callDisable_cfg : (s.callDisable).cfg = s.cfg := rfl
@[simp] theorem State.callDisable_valueValid : (s.callDisable).valueValid = s.valueValid := rfl
@[simp] theorem State.callDisable_value : (s.callDisable).value = s.value := rfl
@[simp] theorem State.callDisable_digits : (s.callDisable).digits = s.digits := rfl
@[simp] theorem State.callDisable_enabled : (s.callDisable).enabled = s.enabled := rfl
@[simp] theorem State.callDisable_latch : (s.callDisable).latch = s.latch := rfl
@[simp] theorem State.callDisable_clock : (s.callDisable).clock = s.clock := rfl
@[simp] theorem State.callDisable_data : (s.callDisable).data = s.data := rfl
@[simp] theorem State.callDisable_now : (s.callDisable).now = s.now := rfl
@[simp] theorem State.callDisable_cmp : (s.callDisable).cmp = s.cmp := rfl
@[simp] theorem State.callDisable_armed : (s.callDisable).armed = false := rfl
@[simp] theorem State.callDisable_pending : (s.callDisable).pending = false := rfl
@[simp] theorem State.callDisable_pinTrace : (s.callDisable).pinTrace = s.pinTrace := rfl
@[simp] theorem State.callDisable_alarmTrace : (s.callDisable).alarmTrace = s.alarmTrace ++ [.disable] := rfl
@[simp] theorem State.callDisable_sr : (s.callDisable).sr = s.sr := rfl
@[simp] theorem State.callDisable_out : (s.callDisable).out = s.out := rfl
@[simp] theorem State.callDisable_returns : (s.callDisable).returns = s.returns := rfl
@[simp] theorem State.callDisable_queue : (s.callDisable).queue = s.queue := rfl

@[simp] theorem State.handBack_cfg (r : Returned) : (s.handBack r).cfg = s.cfg := rfl
@[simp] theorem State.handBack_valueValid (r : Returned) : (s.handBack r).valueValid = s.valueValid := rfl
@[simp] theorem State.handBack_value (r : Returned) : (s.handBack r).value = s.value := rfl
@[simp] theorem State.handBack_digits (r : Returned) : (s.handBack r).digits = s.digits := rfl
@[simp] theorem State.handBack_enabled (r : Returned) : (s.handBack r).enabled = s.enabled := rfl
@[simp] theorem State.handBack_latch (r : Returned) : (s.handBack r).latch = s.latch := rfl
@[simp] theorem State.handBack_clock (r : Returned) : (s.handBack r).clock = s.clock := rfl
@[simp] theorem State.handBack_data (r : Returned) : (s.handBack r).data = s.data := rfl
@[simp] theorem State.handBack_now (r : Returned) : (s.handBack r).now = s.now := rfl
@[simp] theorem State.handBack_cmp (r : Returned) : (s.handBack r).cmp = s.cmp := rfl
@[simp] theorem State.handBack_armed (r : Returned) : (s.handBack r).armed = s.armed := rfl
@[simp] theorem State.handBack_pending (r : Returned) : (s.handBack r).pending = s.pending := rfl
@[simp] theorem State.handBack_pinTrace (r : Returned) : (s.handBack r).pinTrace = s.pinTrace := rfl
@[simp] theorem State.handBack_alarmTrace (r : Returned) : (s.handBack r).alarmTrace = s.alarmTrace := rfl
@[simp] theorem State.handBack_sr (r : Returned) : (s.handBack r).sr = s.sr := rfl
@[simp] theorem State.handBack_out (r : Returned) : (s.handBack r).out = s.out := rfl
@[simp] theorem State.handBack_returns (r : Returned) : (s.handBack r).returns = s.returns ++ [r] := rfl
@[simp] theorem State.handBack_queue (r : Returned) : (s.handBack r).queue = s.queue := rfl

@[simp] theorem State.returnCode_cfg (rc : ReturnCode) : (s.returnCode rc).cfg = s.cfg := rfl
@[simp] theorem State.returnCode_valueValid (rc : ReturnCode) : (s.returnCode rc).valueValid = s.valueValid := rfl
@[simp] theorem State.returnCode_value (rc : ReturnCode) : (s.returnCode rc).value = s.value := rfl
@[simp] theorem State.returnCode_digits (rc : ReturnCode) : (s.returnCode rc).digits = s.digits := rfl
@[simp] theorem State.returnCode_enabled (rc : ReturnCode) : (s.returnCode rc).enabled = s.enabled := rfl
@[simp] theorem State.returnCode_latch (rc : ReturnCode) : (s.returnCode rc).latch = s.latch := rfl
@[simp] theorem State.returnCode_clock (rc : ReturnCode) : (s.returnCode rc).clock = s.clock := rfl
@[simp] theorem State.returnCode_data (rc : ReturnCode) : (s.returnCode rc).data = s.data := rfl
@[simp] theorem State.returnCode_now (rc : ReturnCode) : (s.returnCode rc).now = s.now := rfl
@[simp] theorem State.returnCode_cmp (rc : ReturnCode) : (s.returnCode rc).cmp = s.cmp := rfl
@[simp] theorem State.returnCode_armed (rc : ReturnCode) : (s.returnCode rc).armed = s.armed := rfl
@[simp] theorem State.returnCode_pending (rc : ReturnCode) : (s.returnCode rc).pending = s.pending := rfl
@[simp] theorem State.returnCode_pinTrace (rc : ReturnCode) : (s.returnCode rc).pinTrace = s.pinTrace := rfl
@[simp] theorem State.returnCode_alarmTrace (rc : ReturnCode) : (s.returnCode rc).alarmTrace = s.alarmTrace := rfl
@[simp] theorem State.returnCode_sr (rc : ReturnCode) : (s.returnCode rc).sr = s.sr := rfl
@[simp] theorem State.returnCode_out (rc : ReturnCode) : (s.returnCode rc).out = s.out := rfl
@[simp] theorem State.returnCode_returns (rc : ReturnCode) : (s.returnCode rc).returns = s.returns ++ [.code rc] := rfl
@[simp] theorem State.returnCode_queue (rc : ReturnCode) : (s.returnCode rc).queue = s.queue := rfl

@[simp] theorem State.schedule_cfg (inp : Input) : (s.schedule inp).cfg = s.cfg := rfl
@[simp] theorem State.schedule_valueValid (inp : Input) : (s.schedule inp).valueValid = s.valueValid := rfl
@[simp] theorem State.schedule_value (inp : Input) : (s.schedule inp).value = s.value := rfl
@[simp] theorem State.schedule_digits (inp : Input) : (s.schedule inp).digits = s.digits := rfl
@[simp] theorem State.schedule_enabled (inp : Input) : (s.schedule inp).enabled = s.enabled := rfl
@[simp] theorem State.schedule_latch (inp : Input) : (s.schedule inp).latch = s.latch := rfl
@[simp] theorem State.schedule_clock (inp : Input) : (s.schedule inp).clock = s.clock := rfl
@[simp] theorem State.schedule_data (inp : Input) : (s.schedule inp).data = s.data := rfl
@[simp] theorem State.schedule_now (inp : Input) : (s.schedule inp).now = s.now := rfl
@[simp] theorem State.schedule_cmp (inp : Input) : (s.schedule inp).cmp = s.cmp := rfl
@[simp] theorem State.schedule_armed (inp : Input) : (s.schedule inp).armed = s.armed := rfl
@[simp] theorem State.schedule_pending (inp : Input) : (s.schedule inp).pending = s.pending := rfl
@[simp] theorem State.schedule_pinTrace (inp : Input) : (s.schedule inp).pinTrace = s.pinTrace := rfl
@[simp] theorem State.schedule_alarmTrace (inp : Input) : (s.schedule inp).alarmTrace = s.alarmTrace := rfl
@[simp] theorem State.schedule_sr (inp : Input) : (s.schedule inp).sr = s.sr := rfl
@[simp] theorem State.schedule_out (inp : Input) : (s.schedule inp).out = s.out := rfl
@[simp] theorem State.schedule_returns (inp : Input) : (s.schedule inp).returns = s.returns := rfl
@[simp] theorem State.schedule_queue (inp : Input) : (s.schedule inp).queue = inp :: s.queue := rfl

@[simp] theorem State.reschedule_cfg : (s.reschedule).cfg = s.cfg := rfl
@[simp] theorem State.reschedule_valueValid : (s.reschedule).valueValid = s.valueValid := rfl
@[simp] theorem State.reschedule_value : (s.reschedule).value = s.value := rfl
@[simp] theorem State.reschedule_digits : (s.reschedule).digits = s.digits := rfl
@[simp] theorem State.reschedule_enabled : (s.reschedule).enabled = s.enabled := rfl
@[simp] theorem State.reschedule_latch : (s.reschedule).latch = s.latch := rfl
@[simp] theorem State.reschedule_clock : (s.reschedule).clock = s.clock := rfl
@[simp] theorem State.reschedule_data : (s.reschedule).data = s.data := rfl
@[simp] theorem State.reschedule_now : (s.reschedule).now = s.now := rfl
@[simp] theorem State.reschedule_cmp : (s.reschedule).cmp = tickAdd s.cfg s.now (period s.cfg) := rfl
@[simp] theorem State.reschedule_armed : (s.reschedule).armed = s.armed := rfl
@[simp] theorem State.reschedule_pending : (s.reschedule).pending = false := rfl
@[simp] theorem State.reschedule_pinTrace : (s.reschedule).pinTrace = s.pinTrace := rfl
@[simp] theorem State.reschedule_alarmTrace : (s.reschedule).alarmTrace = s.alarmTrace ++ [.now s.now] ++ [.setAlarm (tickAdd s.cfg s.now (period s.cfg))] := rfl
@[simp] theorem State.reschedule_sr : (s.reschedule).sr = s.sr := rfl
@[simp] theorem State.reschedule_out : (s.reschedule).out = s.out := rfl
@[simp] theorem State.reschedule_returns : (s.reschedule).returns = s.returns := rfl
@[simp] theorem State.reschedule_queue : (s.reschedule).queue = s.queue := rfl

@[simp] theorem State.tick_cfg : (s.tick).cfg = s.cfg := rfl
@[simp] theorem State.tick_valueValid : (s.tick).valueValid = s.valueValid := rfl
@[simp] theorem State.tick_value : (s.tick).value = s.value := rfl
@[simp] theorem State.tick_digits : (s.tick).digits = s.digits := rfl
@[simp] theorem State.tick_enabled : (s.tick).enabled = s.enabled := rfl
@[simp] theorem State.tick_latch : (s.tick).latch = s.latch := rfl
@[simp] theorem State.tick_clock : (s.tick).clock = s.clock := rfl
@[simp] theorem State.tick_data : (s.tick).data = s.data := rfl
@[simp] theorem State.tick_now : (s.tick).now = tickAdd s.cfg s.now 1 := rfl
@[simp] theorem State.tick_cmp : (s.tick).cmp = s.cmp := rfl
@[simp] theorem State.tick_armed : (s.tick).armed = s.armed := rfl
@[simp] theorem State.tick_pending : (s.tick).pending = pendingAfterTick s (tickAdd s.cfg s.now 1) := rfl
@[simp] theorem State.tick_pinTrace : (s.tick).pinTrace = s.pinTrace := rfl
@[simp] theorem State.tick_alarmTrace : (s.tick).alarmTrace = s.alarmTrace := rfl
@[simp] theorem State.tick_sr : (s.tick).sr = s.sr := rfl
@[simp] theorem State.tick_out : (s.tick).out = s.out := rfl
@[simp] theorem State.tick_returns : (s.tick).returns = s.returns := rfl
@[simp] theorem State.tick_queue : (s.tick).queue = s.queue := rfl

end Sys2Proof.Machine
end

