-- ==== Sys2Proof/Laws/Config.lean ====
section
/-! SUPPORT. The parameters: the period is a Tick, wrapping addition stays in range. -/

namespace Sys2Proof.Machine

theorem one_le_period (c : Config) : 1 ≤ period c := c.admissible.2.1

theorem period_lt (c : Config) : period c < 2 ^ c.wTick := c.admissible.2.2

theorem tickAdd_lt (c : Config) (a b : Nat) : tickAdd c a b < 2 ^ c.wTick := Nat.mod_lt _ (Nat.two_pow_pos _)

end Sys2Proof.Machine
end

