-- ==== Sys2Proof/Laws/Encoder.lean ====
section
/-! SUPPORT. The Digit Encoder: every code is in the table's range, and what `ENCODE` answers, once. -/

namespace Sys2Proof.Machine

/-- Every digit code has an entry (spec/20_memory.md R56). -/
theorem segRead_of_le {i : Nat} (h : i ≤ 10) : ∃ b, segRead i = some b :=
  ⟨segTable[i]'(by simp [segTable]; omega), List.getElem?_eq_getElem _⟩

theorem segRead_mem {i : Nat} {b : Byte} (h : segRead i = some b) : b ∈ segTable :=
  List.mem_of_getElem? h

theorem codeThousands_le {n : Nat} (h : n ≤ 9999) : codeThousands n ≤ 10 := by
  unfold codeThousands; split <;> omega

theorem codeHundreds_le (n : Nat) : codeHundreds n ≤ 10 := by
  unfold codeHundreds; split <;> omega

theorem codeTens_le (n : Nat) : codeTens n ≤ 10 := by
  unfold codeTens; split <;> omega

theorem codeUnits_le (n : Nat) : codeUnits n ≤ 10 := by
  unfold codeUnits; omega

/-- `ENCODE(N)` answers `d` exactly when `N` is in the domain and each byte is the entry of its code (R110, R113). -/
theorem encodeValue_eq_some_iff (n : Word16) (d : Digits) :
    encodeValue n = some d ↔ n.toNat ≤ 9999 ∧ segRead (codeThousands n.toNat) = some d.d0 ∧
      segRead (codeHundreds n.toNat) = some d.d1 ∧ segRead (codeTens n.toNat) = some d.d2 ∧
      segRead (codeUnits n.toNat) = some d.d3 := by
  unfold encodeValue
  split
  case isFalse h => simp [h]
  case isTrue h =>
    obtain ⟨b0, h0⟩ := segRead_of_le (codeThousands_le h)
    obtain ⟨b1, h1⟩ := segRead_of_le (codeHundreds_le n.toNat)
    obtain ⟨b2, h2⟩ := segRead_of_le (codeTens_le n.toNat)
    obtain ⟨b3, h3⟩ := segRead_of_le (codeUnits_le n.toNat)
    cases d
    simp [h0, h1, h2, h3, h]

/-- `ENCODE` is total on its domain (R115). -/
theorem encodeValue_of_le {n : Word16} (h : n.toNat ≤ 9999) : ∃ d, encodeValue n = some d := by
  obtain ⟨b0, h0⟩ := segRead_of_le (codeThousands_le h)
  obtain ⟨b1, h1⟩ := segRead_of_le (codeHundreds_le n.toNat)
  obtain ⟨b2, h2⟩ := segRead_of_le (codeTens_le n.toNat)
  obtain ⟨b3, h3⟩ := segRead_of_le (codeUnits_le n.toNat)
  exact ⟨⟨b0, b1, b2, b3⟩, (encodeValue_eq_some_iff n _).2 ⟨h, h0, h1, h2, h3⟩⟩

/-- No value outside the domain (R113). -/
theorem encodeValue_of_gt {n : Word16} (h : 9999 < n.toNat) : encodeValue n = none := by
  rw [encodeValue, if_neg (by omega)]

/-- Every byte `ENCODE` gives is an entry of `SEG` (R115). -/
theorem encodeValue_get_mem {n : Word16} {d : Digits} (h : encodeValue n = some d) (p : Fin 4) : d.get p ∈ segTable := by
  obtain ⟨-, h0, h1, h2, h3⟩ := (encodeValue_eq_some_iff n d).1 h
  match p with
  | 0 => exact segRead_mem h0
  | 1 => exact segRead_mem h1
  | 2 => exact segRead_mem h2
  | 3 => exact segRead_mem h3

end Sys2Proof.Machine
end

