-- ==== Sys2Proof/Laws/Shift.lean ====
section
/-! SUPPORT. What the Shift-Register Output does to the state, once for each operation: the trace it appends, the levels it leaves,
the load's registers. -/

namespace Sys2Proof.Machine

theorem shiftIn_getLsbD (sr : Word16) (b : Bool) (i : Nat) :
    (shiftIn sr b).getLsbD i = if i = 0 then b else (decide (i < 16) && sr.getLsbD (i - 1)) := by
  rw [shiftIn, BitVec.getLsbD_shiftConcat]
  rcases i with _ | i <;> simp

/-- The bits of a frame word (R86): the mask below, the segment byte above. -/
theorem frameWord_getLsbD (seg sel : Byte) (i : Nat) :
    (frameWord seg sel).getLsbD i = if i < 8 then sel.getLsbD i else seg.getLsbD (i - 8) :=
  BitVec.getLsbD_append

theorem srAfterByte_getLsbD_false (sr : Word16) (v : Byte) (i : Nat) :
    (srAfterByte false sr v).getLsbD i = if i < 8 then v.getLsbD i else (decide (i - 8 < 8) && sr.getLsbD (i - 8)) := by
  have : (srAfterByte false sr v).getLsbD i = if i < 8 then v.getLsbD i else (sr.extractLsb' 0 8).getLsbD (i - 8) :=
    BitVec.getLsbD_append
  simpa using this

theorem srAfterByte_getLsbD_true (sr : Word16) (v : Byte) (i : Nat) :
    (srAfterByte true sr v).getLsbD i = if i < 7 then v.getLsbD i else (decide (i - 7 < 9) && sr.getLsbD (i - 7)) := by
  have : (srAfterByte true sr v).getLsbD i =
      if i < 7 then (v.extractLsb' 0 7).getLsbD i else (sr.extractLsb' 0 9).getLsbD (i - 7) := BitVec.getLsbD_append
  rw [this]
  split <;> simp [*]

theorem loadAfterFrame_false (sr : Word16) (seg sel : Byte) : loadAfterFrame false sr seg sel = frameWord seg sel := by
  simp [loadAfterFrame]

theorem loadAfterFrame_getLsbD_true (sr : Word16) (seg sel : Byte) (i : Nat) :
    (loadAfterFrame true sr seg sel).getLsbD i =
      if i < 8 then sel.getLsbD i else if i < 15 then seg.getLsbD (i - 8) else (decide (i - 15 < 1) && sr.getLsbD (i - 15)) := by
  have h : (loadAfterFrame true sr seg sel).getLsbD i =
      if i < 15 then (seg.extractLsb' 0 7 ++ sel).getLsbD i else (sr.extractLsb' 0 1).getLsbD (i - 15) :=
    BitVec.getLsbD_append
  rw [h]
  split
  · rw [BitVec.getLsbD_append]
    split
    · rfl
    · simp [*]
      omega
  · rw [if_neg (by omega)]
    simp

/-- Eight bits shifted in, most significant first, push a byte into the low half (R141). -/
theorem shiftIn_byte (sr : Word16) (v : Byte) :
    [7, 6, 5, 4, 3, 2, 1, 0].foldl (fun t i => shiftIn t (v.getLsbD i)) sr = srAfterByte false sr v := by
  apply BitVec.eq_of_getLsbD_eq
  intro i hi
  simp only [List.foldl, shiftIn_getLsbD, srAfterByte_getLsbD_false]
  interval_cases i <;> simp

/-- The same when the first of the eight clocks is no edge: seven bits arrive (R139). -/
theorem shiftIn_byte_late (sr : Word16) (v : Byte) :
    [6, 5, 4, 3, 2, 1, 0].foldl (fun t i => shiftIn t (v.getLsbD i)) sr = srAfterByte true sr v := by
  apply BitVec.eq_of_getLsbD_eq
  intro i hi
  simp only [List.foldl, shiftIn_getLsbD, srAfterByte_getLsbD_true]
  interval_cases i <;> simp

/-- Two bytes one after another fill the register (R142). -/
theorem srAfterByte_twice (clock : Bool) (sr : Word16) (seg sel : Byte) :
    srAfterByte false (srAfterByte clock sr seg) sel = loadAfterFrame clock sr seg sel := by
  apply BitVec.eq_of_getLsbD_eq
  intro i hi
  cases clock
  · rw [loadAfterFrame_false]
    simp only [srAfterByte_getLsbD_false, frameWord_getLsbD]
    interval_cases i <;> simp
  · simp only [srAfterByte_getLsbD_false, srAfterByte_getLsbD_true, loadAfterFrame_getLsbD_true]
    interval_cases i <;> simp

/-- One turn of `SHIFT_BYTE`'s loop (R131). -/
theorem State.shiftBit_eq (s : State) (b : Bool) :
    s.shiftBit b = { s with
      pinTrace := s.pinTrace ++ bitWrites b, clock := false, data := b,
      sr := if s.clock then s.sr else shiftIn s.sr b } := by
  cases h : s.clock <;> simp [State.shiftBit, State.pinOp, bitWrites, h]

theorem State.shiftBits_low (s : State) (h : s.clock = false) (v : Byte) (is : List Nat) :
    is.foldl (fun t i => t.shiftBit (v.getLsbD i)) s = { s with
      pinTrace := s.pinTrace ++ is.flatMap (fun i => bitWrites (v.getLsbD i))
      data := is.foldl (fun _ i => v.getLsbD i) s.data
      sr := is.foldl (fun t i => shiftIn t (v.getLsbD i)) s.sr } := by
  induction is generalizing s with
  | nil => simp
  | cons i is ih =>
    rw [List.foldl_cons, State.shiftBit_eq, ih _ rfl]
    simp [h]

/-- `SHIFT_BYTE(v)` (R131): 24 pin operations, CLOCK and DATA, eight bits into the load (seven if CLOCK was high). -/
theorem State.shiftByte_eq (s : State) (v : Byte) :
    s.shiftByte v = { s with
      pinTrace := s.pinTrace ++ byteWrites v, clock := false, data := v.getLsbD 0,
      sr := srAfterByte s.clock s.sr v } := by
  rw [State.shiftByte, List.foldl_cons, State.shiftBit_eq, State.shiftBits_low _ rfl]
  cases h : s.clock
  · rw [← shiftIn_byte]; simp [byteWrites]
  · rw [← shiftIn_byte_late]; simp [byteWrites]

/-- `EMIT_FRAME(seg, sel)` (R132, R137, R142). -/
theorem State.emitFrame_eq (s : State) (seg sel : Byte) :
    s.emitFrame seg sel = { s with
      pinTrace := s.pinTrace ++ frameWrites seg sel, latch := true, clock := false, data := sel.getLsbD 0,
      sr := loadAfterFrame s.clock s.sr seg sel, out := loadAfterFrame s.clock s.sr seg sel } := by
  simp only [State.emitFrame, State.shiftByte_eq, State.pinOp, ← srAfterByte_twice]
  simp [frameWrites]

/-- `SCAN` (R133): four frames; the load ends with position 3's (R140). -/
theorem State.scan_eq (s : State) :
    s.scan = { s with
      pinTrace := s.pinTrace ++ scanWrites s.digits, latch := true, clock := false, data := false,
      sr := frameWord s.digits.d3 0xF8#8, out := frameWord s.digits.d3 0xF8#8 } := by
  simp [State.scan, State.emitFrame_eq, loadAfterFrame_false, Digits.get, selRead, scanWrites]

/-- `BLANK_FRAME` (R134). -/
theorem State.blankFrame_eq (s : State) :
    s.blankFrame = { s with
      pinTrace := s.pinTrace ++ frameWrites 0xFF#8 0xF1#8, latch := true, clock := false, data := true,
      sr := loadAfterFrame s.clock s.sr 0xFF#8 0xF1#8, out := loadAfterFrame s.clock s.sr 0xFF#8 0xF1#8 } := by
  simp [State.blankFrame, State.emitFrame_eq]

/-- A list of pin operations appends itself to the trace. -/
theorem State.pinOps_pinTrace (s : State) (ws : List PinWrite) : (s.pinOps ws).pinTrace = s.pinTrace ++ ws := by
  induction ws generalizing s with
  | nil => simp [State.pinOps]
  | cons w ws ih =>
    have := ih (s.pinOp w.pin w.level)
    simpa [State.pinOps] using this

end Sys2Proof.Machine
end

