-- ==== Sys2Proof/Laws/Display.lean ====
section
/-! SUPPORT. The transitions and the alarm callback, each said once for every case. -/

namespace Sys2Proof.Machine

/-- Scheduling and arming from Disabled (spec/42_display_state_machine.md R159). -/
theorem State.startRefresh_eq (s : State) :
    s.startRefresh = { s with
      alarmTrace := s.alarmTrace ++ [.now s.now, .setAlarm (tickAdd s.cfg s.now (period s.cfg)), .enable]
      cmp := tickAdd s.cfg s.now (period s.cfg), pending := false, armed := true, enabled := true } := by
  simp [State.startRefresh, State.reschedule, State.callNow, State.callSetAlarm, State.callEnable]

/-- While Enabled, `do_enable` does nothing (R163). -/
theorem State.doEnable_of_enabled {s : State} (h : s.enabled = true) : s.doEnable = some s := by
  simp [State.doEnable, h]

/-- With no value the encoder is not run (R164). -/
theorem State.doEnable_of_absent {s : State} (h : s.enabled = false) (hv : s.valueValid = false) :
    s.doEnable = some s.startRefresh := by
  simp [State.doEnable, h, hv]

/-- With a value `digits` are recomputed (R159). -/
theorem State.doEnable_of_value {s : State} {d : Digits} (h : s.enabled = false) (hv : s.valueValid = true)
    (hd : encodeValue s.value = some d) : s.doEnable = some { s with digits := d }.startRefresh := by
  simp [State.doEnable, h, hv, hd]

/-- Everything `do_enable` can answer. -/
theorem State.doEnable_cases {s t : State} (h : s.doEnable = some t) :
    (s.enabled = true ∧ t = s) ∨
    (s.enabled = false ∧ s.valueValid = false ∧ t = s.startRefresh) ∨
    (s.enabled = false ∧ s.valueValid = true ∧ ∃ d, encodeValue s.value = some d ∧ t = { s with digits := d }.startRefresh) := by
  cases he : s.enabled
  · cases hv : s.valueValid
    · rw [State.doEnable_of_absent he hv] at h
      exact .inr (.inl ⟨rfl, rfl, (Option.some.inj h).symm⟩)
    · right; right
      simp only [State.doEnable, he, hv, Bool.false_eq_true, if_false, if_true, Option.map_eq_some_iff] at h
      obtain ⟨d, hd, ht⟩ := h
      exact ⟨rfl, rfl, d, hd, ht.symm⟩
  · rw [State.doEnable_of_enabled he] at h
    exact .inl ⟨rfl, (Option.some.inj h).symm⟩

/-- While Disabled, `do_disable` does nothing (R163). -/
theorem State.doDisable_of_disabled {s : State} (h : s.enabled = false) : s.doDisable = s := by
  simp [State.doDisable, h]

/-- From Enabled: the alarm is disabled, then one blank frame (R160). -/
theorem State.doDisable_of_enabled {s : State} (h : s.enabled = true) :
    s.doDisable = { s with
      alarmTrace := s.alarmTrace ++ [.disable], armed := false, pending := false, enabled := false
      pinTrace := s.pinTrace ++ frameWrites 0xFF#8 0xF1#8, latch := true, clock := false, data := true
      sr := loadAfterFrame s.clock s.sr 0xFF#8 0xF1#8, out := loadAfterFrame s.clock s.sr 0xFF#8 0xF1#8 } := by
  simp [State.doDisable, h, State.blankFrame_eq, State.callDisable]

/-- While Disabled, `digits` stay as they are (R161, spec/20_memory.md R69). -/
theorem State.doSetValue_of_disabled {s : State} {n : Word16} (h : s.enabled = false) (hn : n.toNat ≤ 9999) :
    s.doSetValue n = some { s with valueValid := true, value := n } := by
  simp only [State.doSetValue, if_neg (Nat.not_lt.2 hn), h, Bool.false_eq_true, if_false]

/-- While Enabled, `digits` are recomputed (R161). -/
theorem State.doSetValue_of_enabled {s : State} {n : Word16} {d : Digits} (h : s.enabled = true)
    (hd : encodeValue n = some d) : s.doSetValue n = some { s with valueValid := true, value := n, digits := d } := by
  have hn := ((encodeValue_eq_some_iff n d).1 hd).1
  simp only [State.doSetValue, if_neg (Nat.not_lt.2 hn), h, if_true, hd, Option.map_some]

/-- Everything `do_set_value` can answer. -/
theorem State.doSetValue_cases {s t : State} {n : Word16} (h : s.doSetValue n = some t) :
    n.toNat ≤ 9999 ∧
    ((s.enabled = false ∧ t = { s with valueValid := true, value := n }) ∨
     (s.enabled = true ∧ ∃ d, encodeValue n = some d ∧ t = { s with valueValid := true, value := n, digits := d })) := by
  have hn : n.toNat ≤ 9999 := by
    by_contra hn
    simp [State.doSetValue, Nat.not_le.1 hn] at h
  refine ⟨hn, ?_⟩
  rcases Bool.eq_false_or_eq_true s.enabled with he | he
  · obtain ⟨d, hd⟩ := encodeValue_of_le hn
    rw [State.doSetValue_of_enabled he hd] at h
    exact .inr ⟨he, d, hd, (Option.some.inj h).symm⟩
  · rw [State.doSetValue_of_disabled he hn] at h
    exact .inl ⟨he, (Option.some.inj h).symm⟩

/-- The body of the alarm callback (R162). -/
theorem State.fire_eq (s : State) :
    s.fire = { s with
      pending := false, pinTrace := s.pinTrace ++ scanWrites s.digits, latch := true, clock := false, data := false
      sr := frameWord s.digits.d3 0xF8#8, out := frameWord s.digits.d3 0xF8#8
      alarmTrace := s.alarmTrace ++ [.now s.now, .setAlarm (tickAdd s.cfg s.now (period s.cfg))]
      cmp := tickAdd s.cfg s.now (period s.cfg) } := by
  simp [State.fire, State.scan_eq, State.reschedule, State.callNow, State.callSetAlarm]

/-- What an outcome of an encoding operation can be. -/
theorem encodedOrRefused_next {o : Option State} {t : State} (h : encodedOrRefused o = .next t) : o = some t := by
  cases o with
  | none => cases h
  | some s => cases h; rfl

end Sys2Proof.Machine
end

