-- ==== Sys2Proof/Laws/Edges.lean ====
section
/-! SUPPORT. Counting writes and edges of a bit sequence: the pin operations of a frame are those of its sixteen bits, and what
holds of them is proved by induction on the bits. -/

namespace Sys2Proof.Machine

/-- The bits of a byte, in the order they leave the block (spec/20_memory.md R57). -/
def byteBits (v : Byte) : List Bool :=
  [v.getLsbD 7, v.getLsbD 6, v.getLsbD 5, v.getLsbD 4, v.getLsbD 3, v.getLsbD 2, v.getLsbD 1, v.getLsbD 0]

theorem byteBits_length (v : Byte) : (byteBits v).length = 8 := rfl

theorem byteWrites_eq (v : Byte) : byteWrites v = (byteBits v).flatMap bitWrites := by
  simp [byteWrites, byteBits]

theorem frameWrites_eq (seg sel : Byte) :
    frameWrites seg sel = ⟨.latch, false⟩ :: ((byteBits seg ++ byteBits sel).flatMap bitWrites ++ [⟨.latch, true⟩]) := by
  simp [frameWrites, byteWrites_eq]

theorem writesOf_append (p : Pin) (l : Bool) (a b : List PinWrite) :
    writesOf p l (a ++ b) = writesOf p l a + writesOf p l b := by simp [writesOf]

theorem writesOf_cons (p : Pin) (l : Bool) (w : PinWrite) (ws : List PinWrite) :
    writesOf p l (w :: ws) = writesOf p l ws + if w = ⟨p, l⟩ then 1 else 0 := by simp [writesOf, List.count_cons]

theorem writesOf_clock_bits (l : Bool) (bs : List Bool) : writesOf .clock l (bs.flatMap bitWrites) = bs.length := by
  induction bs with
  | nil => rfl
  | cons b bs ih =>
    rw [List.flatMap_cons, writesOf_append, ih, List.length_cons]
    cases l <;> cases b <;> simp [writesOf, bitWrites] <;> omega

theorem writesOf_latch_bits (l : Bool) (bs : List Bool) : writesOf .latch l (bs.flatMap bitWrites) = 0 := by
  induction bs with
  | nil => rfl
  | cons b bs ih =>
    rw [List.flatMap_cons, writesOf_append, ih]
    cases l <;> cases b <;> simp [writesOf, bitWrites]

theorem writesOf_data_bits (bs : List Bool) :
    writesOf .data false (bs.flatMap bitWrites) + writesOf .data true (bs.flatMap bitWrites) = bs.length := by
  induction bs with
  | nil => rfl
  | cons b bs ih =>
    rw [List.flatMap_cons, writesOf_append, writesOf_append, List.length_cons]
    have : writesOf .data false (bitWrites b) + writesOf .data true (bitWrites b) = 1 := by
      cases b <;> simp [writesOf, bitWrites]
    omega

theorem flatMap_bitWrites_length (bs : List Bool) : (bs.flatMap bitWrites).length = 3 * bs.length := by
  induction bs with
  | nil => rfl
  | cons b bs ih => rw [List.flatMap_cons, List.length_append, ih, List.length_cons]; simp [bitWrites]; omega

theorem levelAfter_append (p : Pin) (level : Bool) (a b : List PinWrite) :
    levelAfter p level (a ++ b) = levelAfter p (levelAfter p level a) b := by
  induction a generalizing level with
  | nil => rfl
  | cons w a ih => exact ih _

theorem risingEdges_append (p : Pin) (level : Bool) (a b : List PinWrite) :
    risingEdges p level (a ++ b) = risingEdges p level a + risingEdges p (levelAfter p level a) b := by
  induction a generalizing level with
  | nil => simp [risingEdges, levelAfter]
  | cons w a ih =>
    simp only [List.cons_append, risingEdges, levelAfter]
    split <;> simp [ih, Nat.add_assoc]

theorem fallingEdges_append (p : Pin) (level : Bool) (a b : List PinWrite) :
    fallingEdges p level (a ++ b) = fallingEdges p level a + fallingEdges p (levelAfter p level a) b := by
  induction a generalizing level with
  | nil => simp [fallingEdges, levelAfter]
  | cons w a ih =>
    simp only [List.cons_append, fallingEdges, levelAfter]
    split <;> simp [ih, Nat.add_assoc]

theorem levelAfter_clock_bits (bs : List Bool) : levelAfter .clock false (bs.flatMap bitWrites) = false := by
  induction bs with
  | nil => rfl
  | cons b bs ih => rw [List.flatMap_cons, levelAfter_append]; simpa [levelAfter, bitWrites] using ih

theorem levelAfter_latch_bits (level : Bool) (bs : List Bool) :
    levelAfter .latch level (bs.flatMap bitWrites) = level := by
  induction bs with
  | nil => rfl
  | cons b bs ih => rw [List.flatMap_cons, levelAfter_append]; simpa [levelAfter, bitWrites] using ih

theorem risingEdges_clock_bits (bs : List Bool) : risingEdges .clock false (bs.flatMap bitWrites) = bs.length := by
  induction bs with
  | nil => rfl
  | cons b bs ih =>
    rw [List.flatMap_cons, risingEdges_append]
    simp [risingEdges, levelAfter, bitWrites, ih, Nat.add_comm]

theorem fallingEdges_clock_bits (bs : List Bool) : fallingEdges .clock false (bs.flatMap bitWrites) = bs.length := by
  induction bs with
  | nil => rfl
  | cons b bs ih =>
    rw [List.flatMap_cons, fallingEdges_append]
    simp [fallingEdges, levelAfter, bitWrites, ih, Nat.add_comm]

theorem latch_edges_bits (level : Bool) (bs : List Bool) :
    risingEdges .latch level (bs.flatMap bitWrites) = 0 ∧ fallingEdges .latch level (bs.flatMap bitWrites) = 0 := by
  induction bs with
  | nil => exact ⟨rfl, rfl⟩
  | cons b bs ih =>
    rw [List.flatMap_cons, risingEdges_append, fallingEdges_append]
    simpa [risingEdges, fallingEdges, levelAfter, bitWrites] using ih

/-- The number of changes along a sequence of levels. -/
def changes (level : Bool) : List Bool → Nat
  | [] => 0
  | b :: bs => (if level != b then 1 else 0) + changes b bs

theorem data_edges_bits (level : Bool) (bs : List Bool) (ws : List PinWrite)
    (h : ∀ l, risingEdges .data l ws = 0 ∧ fallingEdges .data l ws = 0) :
    risingEdges .data level (bs.flatMap bitWrites ++ ws) + fallingEdges .data level (bs.flatMap bitWrites ++ ws) =
      changes level bs := by
  induction bs generalizing level with
  | nil => simpa [changes] using h level
  | cons b bs ih =>
    have := ih b
    simp only [List.flatMap_cons, bitWrites, List.cons_append, List.nil_append, risingEdges,
      fallingEdges, changes, if_true, reduceCtorEq, if_false]
    cases level <;> cases b <;> simp_all <;> omega

/-- DATA is written only while CLOCK is low. -/
theorem data_written_low (bs : List Bool) (ws : List PinWrite) (hw : ∀ w ∈ ws, w.pin ≠ .data) (i : Nat) (b : Bool)
    (h : (bs.flatMap bitWrites ++ ws)[i]? = some ⟨.data, b⟩) :
    levelAfter .clock false ((bs.flatMap bitWrites ++ ws).take i) = false := by
  induction bs generalizing i with
  | nil => exact absurd rfl (hw _ (List.mem_of_getElem? h))
  | cons c bs ih =>
    rcases i with _ | _ | _ | i
    · rfl
    · simp [bitWrites] at h
    · simp [bitWrites] at h
    · simpa [bitWrites, levelAfter] using ih i (by simpa [bitWrites] using h)

/-- The operations of bit `j`. -/
theorem bits_getElem (bs : List Bool) (ws : List PinWrite) (j : Nat) (h : j < bs.length) :
    (bs.flatMap bitWrites ++ ws)[3 * j]? = some ⟨.data, bs[j]⟩ ∧
    (bs.flatMap bitWrites ++ ws)[3 * j + 1]? = some ⟨.clock, true⟩ ∧
    (bs.flatMap bitWrites ++ ws)[3 * j + 2]? = some ⟨.clock, false⟩ := by
  induction bs generalizing j with
  | nil => cases h
  | cons b bs ih =>
    rcases j with _ | j
    · simp [bitWrites]
    · have := ih j (by simpa using h)
      simpa [bitWrites, Nat.mul_add] using this

/-- `OUT` moves only at a LATCH write of 1 (spec/41_shift_register_output.md R141). -/
theorem State.pinOps_out (s : State) (ws : List PinWrite) (h : ∀ w ∈ ws, w ≠ ⟨.latch, true⟩) :
    (s.pinOps ws).out = s.out := by
  induction ws generalizing s with
  | nil => rfl
  | cons w ws ih =>
    have hw := h w (by simp)
    have := ih (s.pinOp w.pin w.level) (fun v hv => h v (by simp [hv]))
    rw [show s.pinOps (w :: ws) = (s.pinOp w.pin w.level).pinOps ws from rfl, this, State.pinOp_out]
    cases w with
    | mk p l => cases p <;> cases l <;> simp_all

end Sys2Proof.Machine
end

