-- ==== Sys2Proof/Laws/Exec.lean ====
section
/-! SUPPORT. The dispatch as equations, one per operation, and what an operation of the three agents can be. -/

namespace Sys2Proof.Machine

theorem exec_probe (a : CmdArgs) (s : State) : exec (.probe a) s = .next (s.returnCode .success) := rfl
theorem exec_enable (a : CmdArgs) (s : State) :
    exec (.enable a) s = encodedOrRefused (s.doEnable.map fun t => t.returnCode .success) := rfl
theorem exec_disable (a : CmdArgs) (s : State) : exec (.disable a) s = .next (s.doDisable.returnCode .success) := rfl
theorem exec_setValue (a : CmdArgs) (s : State) :
    exec (.setValue a) s = if 9999 < (setValueOperand a.data1).toNat then .next (s.returnCode .notSupported)
      else encodedOrRefused ((s.doSetValue (setValueOperand a.data1)).map fun t => t.returnCode .success) := rfl
theorem exec_unsupported (k : Nat) (a : CmdArgs) (s : State) :
    exec (.unsupported k a) s = .next (s.returnCode .notSupported) := rfl
theorem exec_fired (s : State) : exec .fired s = if s.pending then .next s.fire else .fault .firedNotPending := rfl
theorem exec_tick (s : State) : exec .tick s = .next s.tick := rfl
theorem exec_encodeDigits (n : Word16) (s : State) :
    exec (.encodeDigits n) s = encodedOrRefused ((encodeValue n).map fun d => s.handBack (.digits d)) := rfl
theorem exec_shiftByte (v : Byte) (s : State) : exec (.shiftByte v) s = .next (s.shiftByte v) := rfl
theorem exec_emitFrame (seg sel : Byte) (s : State) : exec (.emitFrame seg sel) s = .next (s.emitFrame seg sel) := rfl
theorem exec_scan (s : State) : exec .scan s = .next s.scan := rfl
theorem exec_blankFrame (s : State) : exec .blankFrame s = .next s.blankFrame := rfl
theorem exec_doEnable (s : State) : exec .doEnable s = encodedOrRefused s.doEnable := rfl
theorem exec_doDisable (s : State) : exec .doDisable s = .next s.doDisable := rfl
theorem exec_doSetValue (n : Word16) (s : State) :
    exec (.doSetValue n) s = encodedOrRefused (s.doSetValue n) := rfl
theorem exec_pinOp (p : Pin) (l : Bool) (s : State) : exec (.pinOp p l) s = .next (s.pinOp p l) := rfl
theorem exec_alarmNow (s : State) : exec .alarmNow s = .next (s.callNow.handBack (.tick s.now)) := rfl
theorem exec_setAlarm (t : Nat) (s : State) : exec (.setAlarm t) s = .next (s.callSetAlarm t) := rfl
theorem exec_alarmEnable (s : State) : exec .alarmEnable s = .next s.callEnable := rfl
theorem exec_alarmDisable (s : State) : exec .alarmDisable s = .next s.callDisable := rfl

theorem exec_fired_of_pending {s : State} (h : s.pending = true) : exec .fired s = .next s.fire := by
  rw [exec_fired, if_pos h]

theorem next_inj {s t : State} (h : (Host.Outcome.next s : Host.Outcome State Fault Refusal) = .next t) : s = t := by
  injection h

/-- Everything an operation of the three agents (spec/00_scope.md R7) can do when it goes on. -/
theorem exec_external_cases {i : Instr} {s t : State} (hi : i.external = true) (h : exec i s = .next t) :
    (i = .tick ∧ t = s.tick) ∨
    (i = .fired ∧ s.pending = true ∧ t = s.fire) ∨
    (∃ rc, i ≠ .tick ∧ i ≠ .fired ∧ t = s.returnCode rc) ∨
    (∃ a, i = .enable a ∧ s.enabled = false ∧ s.valueValid = false ∧ t = s.startRefresh.returnCode .success) ∨
    (∃ a d, i = .enable a ∧ s.enabled = false ∧ s.valueValid = true ∧ encodeValue s.value = some d ∧
      t = { s with digits := d }.startRefresh.returnCode .success) ∨
    (∃ a, i = .disable a ∧ s.enabled = true ∧ t = s.doDisable.returnCode .success) ∨
    (∃ a n, i = .setValue a ∧ n.toNat ≤ 9999 ∧ s.enabled = false ∧
      t = { s with valueValid := true, value := n }.returnCode .success) ∨
    (∃ a n d, i = .setValue a ∧ n.toNat ≤ 9999 ∧ s.enabled = true ∧ encodeValue n = some d ∧
      t = { s with valueValid := true, value := n, digits := d }.returnCode .success) := by
  cases i <;> simp only [Instr.external, Bool.false_eq_true] at hi
  case probe a => exact .inr (.inr (.inl ⟨_, by simp, by simp, (next_inj h).symm⟩))
  case unsupported k a => exact .inr (.inr (.inl ⟨_, by simp, by simp, (next_inj h).symm⟩))
  case tick => exact .inl ⟨rfl, (next_inj h).symm⟩
  case fired =>
    cases hp : s.pending
    · rw [exec_fired, hp] at h
      cases h
    · rw [exec_fired_of_pending hp] at h
      exact .inr (.inl ⟨rfl, rfl, (next_inj h).symm⟩)
  case enable a =>
    obtain ⟨u, hu, rfl⟩ := Option.map_eq_some_iff.1 (encodedOrRefused_next h)
    rcases State.doEnable_cases hu with ⟨-, rfl⟩ | ⟨h1, h2, rfl⟩ | ⟨h1, h2, d, hd, rfl⟩
    · exact .inr (.inr (.inl ⟨_, by simp, by simp, rfl⟩))
    · exact .inr (.inr (.inr (.inl ⟨a, rfl, h1, h2, rfl⟩)))
    · exact .inr (.inr (.inr (.inr (.inl ⟨a, d, rfl, h1, h2, hd, rfl⟩))))
  case disable a =>
    have h := next_inj h
    rcases Bool.eq_false_or_eq_true s.enabled with he | he
    · exact .inr (.inr (.inr (.inr (.inr (.inl ⟨a, rfl, he, h.symm⟩)))))
    · rw [State.doDisable_of_disabled he] at h
      exact .inr (.inr (.inl ⟨_, by simp, by simp, h.symm⟩))
  case setValue a =>
    rw [exec_setValue] at h
    split at h
    · exact .inr (.inr (.inl ⟨_, by simp, by simp, (next_inj h).symm⟩))
    · obtain ⟨u, hu, rfl⟩ := Option.map_eq_some_iff.1 (encodedOrRefused_next h)
      obtain ⟨hle, ⟨he, rfl⟩ | ⟨he, d, hd, rfl⟩⟩ := State.doSetValue_cases hu
      · exact .inr (.inr (.inr (.inr (.inr (.inr (.inl ⟨a, _, rfl, hle, he, rfl⟩))))))
      · exact .inr (.inr (.inr (.inr (.inr (.inr (.inr ⟨a, _, d, rfl, hle, he, hd, rfl⟩))))))

end Sys2Proof.Machine
end

