-- ==== Sys2Proof/Laws/PerInstr.lean ====
section
/-! SUPPORT. Statements made of every operation as syntax, one lemma per constructor. -/

namespace Sys2Proof.Laws.OperandsFit

/-- A well-formed operation's encoding carries only numbers of their fields' widths: what stands on the command port fits
`W_WORD` bits but for the opaque `app_id` (spec/30_encoding.md R81), the frame word and the operands of internal operations
fit 16 bits, a Tick `W_TICK` bits. -/
def Statement (i : Instr) : Prop :=
  ∀ c : Config, i.wellFormed c = true →
    match (encode i).port with
    | .syscall _ => (encode i).words.length = 4 ∧ ∀ w ∈ (encode i).words.take 3, w < 2 ^ c.wWord
    | .internal .setAlarm => ∀ w ∈ (encode i).words, w < 2 ^ c.wTick
    | _ => ∀ w ∈ (encode i).words, w < 2 ^ 16

theorem command_fits {c : Config} {k : Nat} {a : CmdArgs} (hk : k < 2 ^ c.wWord) (ha : a.wellFormed c = true) :
    (commandInput k a).words.length = 4 ∧ ∀ w ∈ (commandInput k a).words.take 3, w < 2 ^ c.wWord := by
  simp only [CmdArgs.wellFormed, Bool.and_eq_true, decide_eq_true_eq] at ha
  simp [commandInput, hk, ha.1, ha.2]

theorem small_fits (c : Config) {k : Nat} (h : k ≤ 3) : k < 2 ^ c.wWord :=
  Nat.lt_of_lt_of_le (by omega : k < 2 ^ 2) (Nat.pow_le_pow_right (by omega) (by have := c.admissible.1; omega))

theorem probe (a : CmdArgs) : Statement (.probe a) := fun c h => command_fits (small_fits c (by omega)) h
theorem enable (a : CmdArgs) : Statement (.enable a) := fun c h => command_fits (small_fits c (by omega)) h
theorem disable (a : CmdArgs) : Statement (.disable a) := fun c h => command_fits (small_fits c (by omega)) h
theorem setValue (a : CmdArgs) : Statement (.setValue a) := fun c h => command_fits (small_fits c (by omega)) h
theorem unsupported (k : Nat) (a : CmdArgs) : Statement (.unsupported k a) := fun c h => by
  simp only [Instr.wellFormed, Bool.and_eq_true, decide_eq_true_eq] at h
  exact command_fits h.1.2 h.2
theorem fired : Statement .fired := fun _ _ => by simp [encode]
theorem tick : Statement .tick := fun _ _ => by simp [encode]
theorem encodeDigits (n : Word16) : Statement (.encodeDigits n) := fun _ _ => by simpa [encode] using n.isLt
theorem shiftByte (v : Byte) : Statement (.shiftByte v) := fun _ _ => by
  simpa [encode] using Nat.lt_trans v.isLt (by decide)
theorem emitFrame (seg sel : Byte) : Statement (.emitFrame seg sel) := fun _ _ => by
  simpa [encode] using ⟨Nat.lt_trans seg.isLt (by decide), Nat.lt_trans sel.isLt (by decide)⟩
theorem scan : Statement .scan := fun _ _ => by simp [encode]
theorem blankFrame : Statement .blankFrame := fun _ _ => by simp [encode]
theorem doEnable : Statement .doEnable := fun _ _ => by simp [encode]
theorem doDisable : Statement .doDisable := fun _ _ => by simp [encode]
theorem doSetValue (n : Word16) : Statement (.doSetValue n) := fun _ _ => by simpa [encode] using n.isLt
theorem pinOp (p : Pin) (l : Bool) : Statement (.pinOp p l) := fun _ _ => by simp [encode]
theorem alarmNow : Statement .alarmNow := fun _ _ => by simp [encode]
theorem setAlarm (t : Nat) : Statement (.setAlarm t) := fun _ h => by
  simpa [Statement, encode, Instr.wellFormed] using h
theorem alarmEnable : Statement .alarmEnable := fun _ _ => by simp [encode]
theorem alarmDisable : Statement .alarmDisable := fun _ _ => by simp [encode]

end Sys2Proof.Laws.OperandsFit
end

