-- ==== Sys2Proof/Laws/Step.lean ====
section
/-! SUPPORT. What one step and one run can be. -/

namespace Sys2Proof.Machine

/-- Everything a step that goes on can be: the counter's, when the schedule is empty, or the next input's operation. -/
theorem step_cases {s t : State} (h : step s = .next t) :
    (s.queue = [] ∧ t = s.tick) ∨
    ∃ inp rest i, s.queue = inp :: rest ∧ decode s.cfg inp = .ok i ∧ exec i { s with queue := rest } = .next t := by
  unfold step fetch at h
  split at h
  · rename_i i u hf
    split at hf
    · cases hf
      exact .inl ⟨by assumption, by cases h; rfl⟩
    · rename_i inp rest hq
      split at hf
      · rename_i j hd
        cases hf
        exact .inr ⟨inp, rest, i, hq, hd, h⟩
      · cases hf
  · cases h

/-- An empty schedule: the counter advances. -/
theorem step_of_nil {s : State} (h : s.queue = []) : step s = exec .tick s := by
  simp [step, fetch, h]

/-- A decodable input: its operation, in the state without it. -/
theorem step_of_ok {s : State} {inp : Input} {rest : List Input} {i : Instr} (h : s.queue = inp :: rest)
    (hd : decode s.cfg inp = .ok i) : step s = exec i { s with queue := rest } := by
  simp [step, fetch, h, hd]

/-- An undecodable input: refused by name. -/
theorem step_of_error {s : State} {inp : Input} {rest : List Input} {e : DecodeError} (h : s.queue = inp :: rest)
    (hd : decode s.cfg inp = .error e) : step s = .refused (.notAnOperation e) := by
  simp [step, fetch, h, hd]

/-- A run whose first step goes on is the run from there. -/
theorem run_succ_of_step {k : Nat} {s u : State} (h : step s = .next u) :
    Sys2Proof.core.run (k + 1) s = Sys2Proof.core.run k u := by
  have h' : Sys2Proof.core.step s = .next u := h
  simp only [Host.Core.run, h']

/-- A run that goes on goes on at its first step. -/
theorem run_succ_next {k : Nat} {s t : State} (h : Sys2Proof.core.run (k + 1) s = .next t) :
    ∃ u, step s = .next u ∧ Sys2Proof.core.run k u = .next t := by
  cases hs : step s with
  | next u => exact ⟨u, rfl, by rw [← run_succ_of_step hs]; exact h⟩
  | fault r =>
    have h' : Sys2Proof.core.step s = .fault r := hs
    simp only [Host.Core.run, h'] at h
    cases h
  | refused r =>
    have h' : Sys2Proof.core.step s = .refused r := hs
    simp only [Host.Core.run, h'] at h
    cases h

end Sys2Proof.Machine
end

