-- ==== Sys2Proof/Tests/Slice0.lean ====
section
/-! SUPPORT. Tests of the model, their expected results from spec/95_test_vectors.md (the vector is named at each), and for each
statement with hypotheses a witness that meets them. -/

namespace Sys2Proof.Machine.Tests

/-- The draws of programs PA and PC: pins (1, 0, 0), `NOW_INIT = 100`. -/
def draws : ResetDraws := { ResetDraws.zero with latch := true, now := 100 }

/-- Reset with those draws, `PERIOD = 2`. -/
def base : State := State.resetWith Config.default draws

/-- A field of the next state. -/
def after {α : Type} (o : Host.Outcome State Fault Refusal) (f : State → α) : Option α :=
  match o with
  | .next t => some (f t)
  | .fault _ => none
  | .refused _ => none

/-- Whether an outcome is the stuck state of `FIRED`. -/
def isFault (o : Host.Outcome State Fault Refusal) : Bool :=
  match o with
  | .next _ => false
  | .fault _ => true
  | .refused _ => false

/-- Whether an outcome is a refusal. -/
def isRefused (o : Host.Outcome State Fault Refusal) : Bool :=
  match o with
  | .next _ => false
  | .fault _ => false
  | .refused _ => true

/-- The digits of 1234 (R117). -/
def digits1234 : Digits := ⟨0xF9#8, 0xA4#8, 0xB0#8, 0x99#8⟩

/-- Enabled, showing 1234, the alarm reached at 102 and not delivered (V-SM-4). -/
def showing : State :=
  { base with
    valueValid := true, value := 1234#16, digits := digits1234, enabled := true, armed := true, pending := true
    now := 102, cmp := 102, alarmTrace := [.now 100, .setAlarm 102, .enable] }

/-- Enabled with no value, the alarm reached (program PB). -/
def showingBlank : State :=
  { base with
    enabled := true, armed := true, pending := true
    now := 102, cmp := 102, alarmTrace := [.now 100, .setAlarm 102, .enable] }

/-- No arguments. -/
def noArgs : CmdArgs := ⟨0, 0, 0⟩

/-- The pin operations of a string of the notation of R98, without the blanks: two characters each. -/
def ops (s : List Char) : List PinWrite :=
  match s with
  | p :: l :: rest =>
    ⟨if p = 'L' then .latch else if p = 'C' then .clock else .data, decide (l = '1')⟩ :: ops rest
  | _ => []

/-! ### Ill-formed terms are refused -/

theorem test_data1_too_wide : (Instr.setValue ⟨2 ^ 32, 0, 0⟩).wellFormed Config.default = false := by decide
theorem test_data2_too_wide : (Instr.probe ⟨0, 2 ^ 32, 0⟩).wellFormed Config.default = false := by decide
theorem test_supported_number : (Instr.unsupported 3 noArgs).wellFormed Config.default = false := by decide
theorem test_number_too_wide : (Instr.unsupported (2 ^ 32) noArgs).wellFormed Config.default = false := by decide
theorem test_encode_out_of_domain : (Instr.encodeDigits 10000#16).wellFormed Config.default = false := by decide
theorem test_set_out_of_domain : (Instr.doSetValue 10000#16).wellFormed Config.default = false := by decide
theorem test_tick_too_wide : (Instr.setAlarm (2 ^ 32)).wellFormed Config.default = false := by decide
/-- V-P-1, V-P-10: refused configurations; V-P-2: the least admissible. -/
theorem test_configurations : Config.mk? 32 32 7999 = none ∧ Config.mk? 32 32 34359738368000 = none ∧
    (Config.mk? 32 32 8000).map period = some 1 ∧ (Config.mk? 32 32 32768).map period = some 4 ∧
    Config.mk? 32 31 8000 = none := by decide

/-! ### Decoding: each constructor from an input written out from the spec (R83, R95 to R98) -/

theorem test_decode_probe : decodeTableWord 32 0x00000000 = some (.probe noArgs) := by decide
theorem test_decode_enable : decodeTableWord 32 0x00000001 = some (.enable noArgs) := by decide
theorem test_decode_disable : decodeTableWord 32 0x00000002 = some (.disable noArgs) := by decide
/-- V-C-8: `(3, 1234, 0xDEAD)`. -/
theorem test_decode_setValue : decodeTableWord 96 0x0000DEAD000004D200000003 = some (.setValue ⟨1234, 0xDEAD, 0⟩) := by decide
/-- V-C-22: `cmd_num` is compared whole. -/
theorem test_decode_unsupported : decodeTableWord 32 0x100 = some (.unsupported 256 noArgs) := by decide
theorem test_decode_fired : decode Config.default ⟨.callback, []⟩ = .ok .fired := by decide
theorem test_decode_tick : decode Config.default ⟨.counter, []⟩ = .ok .tick := by decide
theorem test_decode_encode : decode Config.default ⟨.internal .encodeDigits, [9999]⟩ = .ok (.encodeDigits 9999#16) := by decide
theorem test_decode_shiftByte : decode Config.default ⟨.internal .shiftByte, [0xF9]⟩ = .ok (.shiftByte 0xF9#8) := by decide
theorem test_decode_emitFrame : decode Config.default ⟨.internal .emitFrame, [0xF9, 0xF1]⟩ = .ok (.emitFrame 0xF9#8 0xF1#8) := by
  decide
theorem test_decode_frameWord : decodeTableWord 16 0xA4F2 = some (.emitFrame 0xA4#8 0xF2#8) := by decide
theorem test_decode_scan : decode Config.default ⟨.internal .scan, []⟩ = .ok .scan := by decide
theorem test_decode_blankFrame : decodeTableWord 16 0xFFF1 = some .blankFrame := by decide
theorem test_decode_doEnable : decode Config.default ⟨.internal .doEnable, []⟩ = .ok .doEnable := by decide
theorem test_decode_doDisable : decode Config.default ⟨.internal .doDisable, []⟩ = .ok .doDisable := by decide
theorem test_decode_doSetValue : decode Config.default ⟨.internal .doSetValue, [42]⟩ = .ok (.doSetValue 42#16) := by decide
theorem test_decode_pinOp : decode Config.default ⟨.internal (.pinOp .clock true), []⟩ = .ok (.pinOp .clock true) := by decide
theorem test_decode_alarm :
    decode Config.default ⟨.internal .alarmNow, []⟩ = .ok .alarmNow ∧
    decode Config.default ⟨.internal .setAlarm, [102]⟩ = .ok (.setAlarm 102) ∧
    decode Config.default ⟨.internal .alarmEnable, []⟩ = .ok .alarmEnable ∧
    decode Config.default ⟨.internal .alarmDisable, []⟩ = .ok .alarmDisable := by decide
theorem test_decode_rejects :
    decode Config.default ⟨.syscall 0xA0000000, [0, 0, 0, 0]⟩ = .error .otherDriver ∧
    decode Config.default ⟨.syscall 0xB0000000, [0]⟩ = .error .wrongOperandCount ∧
    decode Config.default ⟨.syscall 0xB0000000, [2 ^ 32, 0, 0, 0]⟩ = .error .operandTooWide ∧
    decode Config.default ⟨.callback, [0]⟩ = .error .wrongOperandCount ∧
    decode Config.default ⟨.internal .encodeDigits, [10000]⟩ = .error .valueOutOfDomain ∧
    decodeTableWord 0 0 = none := by decide

/-! ### One step each -/

/-- V-C-2. -/
theorem test_probe : after (exec (.probe ⟨0xFFFFFFFF, 7, 3⟩) showing) State.returns = some [.code .success] := by decide
/-- V-C-19. -/
theorem test_unsupported : after (exec (.unsupported 4 noArgs) showing) State.returns = some [.code .notSupported] := by decide
/-- V-SM-2. -/
theorem test_enable : after (exec (.enable noArgs) { base with valueValid := true, value := 1234#16 })
    (fun t => (t.digits, t.cmp, t.armed, t.enabled)) = some (digits1234, 102, true, true) := by decide
/-- V-SM-3: already Enabled. -/
theorem test_enable_again : after (exec (.enable noArgs) showing) (fun t => (t.cmp, t.alarmTrace.length, t.pending)) =
    some (102, 3, true) := by decide
/-- V-SM-7, V-F-10: a reached firing is cancelled; one blank frame. -/
theorem test_disable : after (exec (.disable noArgs) showing)
    (fun t => (t.pending, t.armed, t.pinTrace.length, t.out, t.data)) = some (false, false, 50, 0xFFF1#16, true) := by decide
/-- V-SM-8: already Disabled. -/
theorem test_disable_again : after (exec (.disable noArgs) base) (fun t => (t.pinTrace, t.alarmTrace)) = some ([], []) := by decide
/-- V-C-14, V-E-19: 70000 is 4464. -/
theorem test_setValue : after (exec (.setValue ⟨70000, 0, 0⟩) showing) (fun t => (t.value, t.digits, t.returns)) =
    some (4464#16, ⟨0x99#8, 0x99#8, 0x82#8, 0x99#8⟩, [.code .success]) := by decide
/-- V-C-16: 75536 is 10000 and is refused. -/
theorem test_setValue_refused : after (exec (.setValue ⟨75536, 0, 0⟩) showing) (fun t => (t.value, t.returns)) =
    some (1234#16, [.code .notSupported]) := by decide
set_option maxRecDepth 10000 in
/-- V-SM-5: rescheduled from the counter as read. -/
theorem test_fired : after (exec .fired { showing with now := 107 }) (fun t => (t.cmp, t.pending, t.out)) =
    some (109, false, 0x99F8#16) := by decide
/-- V-SM-15: not a step. -/
theorem test_fired_not_pending : isFault (exec .fired { showing with pending := false }) = true := by decide
/-- V-A-9: the wrap. -/
theorem test_tick_wraps : after (exec .tick { base with now := 0xFFFFFFFF, cmp := 1, armed := true })
    (fun t => (t.now, t.pending)) = some (0, false) := by decide
/-- V-A-10. -/
theorem test_tick_reaches : after (exec .tick { base with now := 0, cmp := 1, armed := true })
    (fun t => (t.now, t.pending)) = some (1, true) := by decide
/-- V-E-21, V-E-13. -/
theorem test_encode : encodeValue 6789#16 = some ⟨0x82#8, 0xF8#8, 0x80#8, 0x90#8⟩ ∧
    encodeValue 305#16 = some ⟨0xFF#8, 0xB0#8, 0xC0#8, 0x92#8⟩ := by decide
/-- V-E-23. -/
theorem test_encode_refused : isRefused (exec (.encodeDigits 10000#16) base) = true := by decide
/-- V-SB-6: most significant bit first. -/
theorem test_shiftByte : after (exec (.shiftByte 0x80#8) base) (fun t => (t.pinTrace, t.sr)) =
    some (ops "D1C1C0D0C1C0D0C1C0D0C1C0D0C1C0D0C1C0D0C1C0D0C1C0".toList, 0x0080#16) := by decide
/-- V-F-1. -/
theorem test_emitFrame : after (exec (.emitFrame 0xF9#8 0xF1#8) base) State.pinTrace = some (ops
    ("L0D1C1C0D1C1C0D1C1C0D1C1C0D1C1C0D0C1C0D0C1C0D1C1C0" ++
     "D1C1C0D1C1C0D1C1C0D1C1C0D0C1C0D0C1C0D0C1C0D1C1C0L1").toList) := by decide
/-- V-F-15: the first frame after reset with CLOCK high. -/
theorem test_emitFrame_late : after (exec (.emitFrame 0xF9#8 0xF1#8) { base with clock := true, data := true, sr := 0xABCC#16 })
    (fun t => (t.latch, t.clock, t.data, t.out)) = some (true, false, true, 0x79F1#16) := by decide
/-- V-F-15, V-F-17: the edges of such frames. -/
theorem test_edges_late : risingEdges .clock true (frameWrites 0xF9#8 0xF1#8) = 15 ∧
    fallingEdges .clock true (frameWrites 0xF9#8 0xF1#8) = 16 ∧
    fallingEdges .latch false (frameWrites 0xFF#8 0xF1#8) = 0 := by decide
set_option maxRecDepth 10000 in
/-- V-SC-1. -/
theorem test_scan : after (exec .scan showing) (fun t => (t.pinTrace.length, t.latch, t.clock, t.data, t.out)) =
    some (200, true, false, false, 0x99F8#16) := by decide
/-- V-F-17. -/
theorem test_blankFrame : after (exec .blankFrame { base with latch := false, clock := true, data := true, sr := 0xABCC#16 })
    State.out = some 0x7FF1#16 := by decide
/-- V-SM-1. -/
theorem test_doEnable : after (exec .doEnable base) (fun t => (t.digits.d3, t.cmp, t.alarmTrace)) =
    some (0xFF#8, 102, [.now 100, .setAlarm 102, .enable]) := by decide
/-- V-SM-6. -/
theorem test_doDisable : after (exec .doDisable { showing with pending := false, now := 103, cmp := 104 })
    (fun t => (t.cmp, t.digits, t.pinTrace.length)) = some (104, digits1234, 50) := by decide
/-- V-SM-12: stale digits while Disabled. -/
theorem test_doSetValue : after (exec (.doSetValue 42#16) { showing with enabled := false, armed := false, pending := false })
    (fun t => (t.value, t.digits)) = some (42#16, digits1234) := by decide
/-- R130: a second write of the same level is recorded and is no edge. -/
theorem test_pinOp : after (exec (.pinOp .clock true) { base with clock := true, data := true, sr := 1#16 })
    (fun t => (t.pinTrace, t.sr)) = some ([⟨.clock, true⟩], 1#16) := by decide
/-- V-A-1. -/
theorem test_alarmNow : after (exec .alarmNow base) (fun t => (t.alarmTrace, t.returns)) = some ([.now 100], [.tick 100]) := by decide
/-- V-A-13. -/
theorem test_setAlarm : after (exec (.setAlarm 104) showing) (fun t => (t.cmp, t.armed, t.pending)) = some (104, true, false) := by
  decide
/-- V-A-3. -/
theorem test_alarmEnable : after (exec .alarmEnable { base with cmp := 102 }) (fun t => (t.cmp, t.armed, t.pending)) =
    some (102, true, false) := by decide
/-- V-A-7. -/
theorem test_alarmDisable : after (exec .alarmDisable showing) (fun t => (t.cmp, t.armed, t.pending)) =
    some (102, false, false) := by decide
/-- The word of a table row runs as the first operation after reset. -/
theorem test_withFetchWord : after (step (State.reset.withFetchWord 32 1)) (fun t => (t.enabled, t.cmp, t.queue)) =
    some (true, 2, []) := by decide
theorem test_withFetchWord_frame : after (step (State.reset.withFetchWord 16 0xFFF1)) (fun t => (t.pinTrace.length, t.queue)) =
    some (50, []) := by decide

/-! ### Witnesses: for each statement with hypotheses, terms that meet them -/

theorem witness_StepRunsScheduledOperation :
    (base.schedule (encode .tick)).queue = encode .tick :: [] ∧ decode base.cfg (encode .tick) = .ok .tick ∧
    base.queue = [] ∧
    (base.schedule ⟨.callback, [0]⟩).queue = ⟨.callback, [0]⟩ :: [] ∧
    decode base.cfg ⟨.callback, [0]⟩ = .error .wrongOperandCount := by decide

theorem witness_DecodeOfEncode :
    (Instr.setValue ⟨2 ^ 32 - 1, 2 ^ 32 - 1, 5⟩).wellFormed Config.default = true ∧
    (Instr.unsupported 4 noArgs).wellFormed Config.default = true ∧
    (Instr.unsupported (2 ^ 32 - 1) noArgs).wellFormed Config.default = true ∧
    (Instr.encodeDigits 9999#16).wellFormed Config.default = true ∧
    (Instr.setAlarm (2 ^ 32 - 1)).wellFormed Config.default = true ∧
    (Instr.emitFrame 0xFF#8 0xF1#8).wellFormed Config.default = true := by decide

theorem witness_DecodedIsWellFormed :
    decode Config.default ⟨.frame, [0xFFFF]⟩ = .ok (.emitFrame 0xFF#8 0xFF#8) ∧
    decode Config.default ⟨.syscall 0xB0000000, [4, 0, 0, 0]⟩ = .ok (.unsupported 4 noArgs) := by decide

theorem witness_EveryTupleDispatched :
    4294967295 < 2 ^ Config.default.wWord ∧ 0 < 2 ^ Config.default.wWord ∧ 0xA0000000 ≠ 0xB0000000 := by decide

theorem witness_EncodeDigitsByPosition : (9999#16).toNat ≤ 9999 ∧ (0#16).toNat ≤ 9999 := by decide

theorem witness_LeadingZerosBlank :
    encodeValue 0#16 = some ⟨0xFF#8, 0xFF#8, 0xFF#8, 0xC0#8⟩ ∧
    encodeValue 10#16 = some ⟨0xFF#8, 0xFF#8, 0xF9#8, 0xC0#8⟩ ∧
    encodeValue 100#16 = some ⟨0xFF#8, 0xF9#8, 0xC0#8, 0xC0#8⟩ ∧
    encodeValue 1000#16 = some ⟨0xF9#8, 0xC0#8, 0xC0#8, 0xC0#8⟩ := by decide

theorem witness_EncodeTotalFromSeg : (9999#16).toNat ≤ 9999 := by decide

theorem witness_EncodeInjective :
    encodeValue 9#16 = some ⟨0xFF#8, 0xFF#8, 0xFF#8, 0x90#8⟩ ∧ encodeValue 99#16 = some ⟨0xFF#8, 0xFF#8, 0x90#8, 0x90#8⟩ ∧
    encodeValue 999#16 = some ⟨0xFF#8, 0x90#8, 0x90#8, 0x90#8⟩ ∧
    encodeValue 9999#16 = some ⟨0x90#8, 0x90#8, 0x90#8, 0x90#8⟩ := by decide

theorem witness_EncodeDomainStops :
    9999 < (10000#16).toNat ∧ base.enabled = false ∧
    ({ base with valueValid := true, value := 10000#16 } : State).valueValid = true := by decide

theorem witness_FrameEdges : base.clock = false ∧ base.latch = true := by decide

theorem witness_FrameReachesLoad : base.clock = false ∧ ({ base with clock := true } : State).clock = true := by decide

theorem witness_FiredScansAndReschedules : showing.pending = true := by decide

theorem witness_FiredExactlyWhenPending : base.pending = false ∧ showing.pending = true ∧ showing.enabled = true := by decide

theorem witness_OneScanPerFire : showing.pending = true := by decide

/-- The schedule of one period crosses the counter's wrap. -/
theorem witness_AlarmReachedAfterPeriod :
    ∃ s : State, s.armed = true ∧ s.pending = false ∧ s.now < 2 ^ s.cfg.wTick ∧
      s.cmp = (s.now + s.cfg.freq / 8000) % 2 ^ s.cfg.wTick ∧ s.queue = List.replicate 2 ⟨.counter, []⟩ ++ [encode .fired] :=
  ⟨{ base with
      armed := true, now := 0xFFFFFFFF, cmp := 1
      queue := [⟨.counter, []⟩, ⟨.counter, []⟩, encode .fired] }, by decide⟩

theorem witness_DoEnableActs :
    base.enabled = false ∧ base.valueValid = false ∧ showing.enabled = true ∧
    ({ base with valueValid := true, value := 9999#16 } : State).enabled = false ∧
    ({ base with valueValid := true, value := 9999#16 } : State).value.toNat ≤ 9999 := by decide

theorem witness_DoDisableActs : showing.enabled = true ∧ base.enabled = false := by decide

theorem witness_DoSetValueActs : (9999#16).toNat ≤ 9999 ∧ base.enabled = false ∧ showing.enabled = true := by decide

theorem witness_EnableCommandActs :
    base.enabled = false ∧ base.valueValid = false ∧ showing.enabled = true ∧
    ({ base with valueValid := true, value := 0#16 } : State).valueValid = true := by decide

theorem witness_DisableCommandActs : showing.enabled = true ∧ base.enabled = false := by decide

/-- The boundary values of V-C-15 and V-C-16. -/
theorem witness_SetValueCommandActs :
    9999 < 75536 % 2 ^ 16 ∧ 75535 % 2 ^ 16 ≤ 9999 ∧ base.enabled = false ∧ showing.enabled = true := by decide

theorem witness_EveryCommandAnswered :
    showing.valueValid = true ∧ showing.value.toNat ≤ 9999 ∧ 4294967295 < 2 ^ showing.cfg.wWord := by decide

theorem witness_CommandsIdempotent :
    (after (exec (.setValue ⟨7, 0, 0⟩) base) State.value).isSome = true ∧
    (after (exec (.enable noArgs) base) State.value).isSome = true ∧
    (after (exec (.disable noArgs) showing) State.value).isSome = true := by decide

theorem witness_SetValueThenEnableShowsValue : (⟨75535, 0, 0⟩ : CmdArgs).data1 % 2 ^ 16 ≤ 9999 := by decide

theorem witness_WriterTable :
    Instr.fired.external = true ∧ (after (exec .fired showing) State.cmp).isSome = true ∧
    (Instr.setValue noArgs).external = true ∧ (after (exec (.setValue noArgs) base) State.valueValid) = some true := by decide

theorem witness_TracesOnlyGrow : (after (exec .scan base) State.cmp).isSome = true := by decide

theorem witness_ValueStaysPresent : showing.valueValid = true ∧ (after (step showing) State.now).isSome = true := by decide

/-- `showing` meets the invariant. -/
theorem witness_showing_inv : Inv showing where
  external := by decide
  nowInRange := by decide
  cmpInRange := by decide
  enabledArmed := rfl
  digitsFresh := by decide
  valueInDomain := by decide
  digitsBlank := by decide
  digitsFromSeg := by decide
  pendingArmed := by decide
  frames := ⟨[], rfl, by simp, by simp, by simp, by simp⟩
  alarm := by decide

/-- So does `showingBlank`. -/
theorem witness_showingBlank_inv : Inv showingBlank where
  external := by decide
  nowInRange := by decide
  cmpInRange := by decide
  enabledArmed := rfl
  digitsFresh := by decide
  valueInDomain := by decide
  digitsBlank := by decide
  digitsFromSeg := by decide
  pendingArmed := by decide
  frames := ⟨[], rfl, by simp, by simp, by simp, by simp⟩
  alarm := by decide

/-- And a Disabled state with operations scheduled. -/
def idle : State := { base with queue := [encode .tick, encode (.probe noArgs), encode (.setValue ⟨7, 0, 0⟩)] }

theorem witness_idle_inv : Inv idle where
  external := by decide
  nowInRange := by decide
  cmpInRange := by decide
  enabledArmed := rfl
  digitsFresh := by decide
  valueInDomain := by decide
  digitsBlank := by decide
  digitsFromSeg := by decide
  pendingArmed := by decide
  frames := ⟨[], rfl, by simp, by simp, by simp, by simp⟩
  alarm := by decide

theorem witness_BlockNeverHalts :
    Inv showing ∧ showing.queue = [] ∧ Inv idle ∧
    idle.queue = encode .tick :: [encode (.probe noArgs), encode (.setValue ⟨7, 0, 0⟩)] ∧
    decode idle.cfg (encode .tick) = .ok .tick :=
  ⟨witness_showing_inv, rfl, witness_idle_inv, rfl, rfl⟩

theorem witness_OrderIsObservable :
    showing.enabled = true ∧ showing.pending = true ∧ (⟨9999, 0, 0⟩ : CmdArgs).data1 % 2 ^ 16 ≤ 9999 := by decide

theorem witness_FiringShowsStoredValue :
    Inv showing ∧ showing.pending = true ∧ showing.valueValid = true ∧
    Inv showingBlank ∧ showingBlank.pending = true ∧ showingBlank.valueValid = false :=
  ⟨witness_showing_inv, rfl, rfl, witness_showingBlank_inv, rfl, rfl⟩

theorem witness_InvariantAtReset :
    ({ draws with now := 2 ^ 32 - 1, cmp := 2 ^ 32 - 1 } : ResetDraws).InRange Config.default := by decide

theorem witness_InvariantKept : Inv idle ∧ (after (step idle) State.now) = some 101 := ⟨witness_idle_inv, by decide⟩

theorem witness_DisabledIsSilent :
    Inv idle ∧ idle.enabled = false ∧ (∀ inp ∈ idle.queue, inp.isEnable = false) ∧
    after (Sys2Proof.core.run 3 idle) State.value = some 7#16 :=
  ⟨witness_idle_inv, rfl, by decide, by decide⟩

/-- `showing` with its firing scheduled. -/
def firing : State := { showing with queue := [encode .fired] }

/-- `showing` with a `DISABLE` scheduled. -/
def stopping : State := { showing with queue := [encode (.disable noArgs)] }

/-- A Disabled state with an `ENABLE` scheduled. -/
def starting : State := { base with queue := [encode (.enable noArgs)] }

/-- The schedule matters to the invariant in one clause only. -/
theorem inv_with_queue {s : State} (h : Inv s) (q : List Input) (hq : ∀ inp ∈ q, inp.external = true) :
    Inv { s with queue := q } :=
  { h with
    external := hq
    frames := h.frames.imp fun _ f => ⟨f.trace, f.segEntries, f.selEntries, f.rest, f.load⟩ }

theorem witness_firing_inv : Inv firing := inv_with_queue witness_showing_inv _ (by decide)

theorem witness_stopping_inv : Inv stopping := inv_with_queue witness_showing_inv _ (by decide)

theorem witness_starting_inv : Inv starting := inv_with_queue witness_idle_inv _ (by decide)

/-- One state for each kind of block, and a step in each. -/
theorem witness_AlarmTraceWellShaped :
    Inv firing ∧ after (step firing) (fun t => t.alarmTrace.length) = some 5 ∧
    Inv stopping ∧ after (step stopping) (fun t => t.alarmTrace.length) = some 4 ∧
    Inv starting ∧ after (step starting) (fun t => (t.alarmTrace, t.armed)) =
      some ([.now 100, .setAlarm 102, .enable], true) ∧
    Inv idle ∧ after (step idle) State.alarmTrace = some [] :=
  ⟨witness_firing_inv, by decide, witness_stopping_inv, by decide, witness_starting_inv, by decide,
    witness_idle_inv, by decide⟩

theorem witness_IgnoredOperandsDoNotMatter :
    SchedulesAlike base.cfg [commandInput 3 ⟨7, 0, 1⟩, encode .tick] [commandInput 3 ⟨65543, 9, 2⟩, encode .tick] ∧
    after (Sys2Proof.core.run 2 { base with queue := [commandInput 3 ⟨7, 0, 1⟩, encode .tick] }) State.value = some 7#16 :=
  ⟨.cons (.command 3 7 0 1 65543 9 2 (by decide) (by decide) (by decide) (by decide) (by decide)) (.cons (.same _) .nil),
    by decide⟩

/-- Boundary words: the least, the neighbours of `0xFFF1`, the greatest, and the least that is too wide. -/
theorem witness_FrameWordsDecode :
    (0 < 2 ^ 16 ∧ 0 ≠ 0xFFF1) ∧ (0xFFF0 < 2 ^ 16 ∧ 0xFFF0 ≠ 0xFFF1) ∧ (0xFFF2 < 2 ^ 16 ∧ 0xFFF2 ≠ 0xFFF1) ∧
    (0xFFFF < 2 ^ 16 ∧ 0xFFFF ≠ 0xFFF1) ∧ 2 ^ 16 ≤ 0x10000 ∧
    decodeTableWord 16 0xF182 = some (.emitFrame 0xF1#8 0x82#8) := by decide

end Sys2Proof.Machine.Tests
end

section
/-! What a step runs (spec/00_scope.md section 4). -/

namespace Sys2Proof.Machine

/-- Settles O2: the three cases of the schedule (a decodable head, none, an undecodable head) are the three equations of
`step`. -/
theorem stepRunsScheduledOperation : Obligations.StepRunsScheduledOperation := by
  intro s
  refine ⟨?decodes, step_of_nil, ?refused⟩
  case decodes =>
    intro inp rest i hq hd
    exact step_of_ok hq hd
  case refused =>
    intro inp rest e hq hd
    exact step_of_error hq hd

end Sys2Proof.Machine
end

section
/-! The frames of the pin trace (spec/30_encoding.md R86 to R89): each frame an operation emits extends the sequence, and only pin
operations touch it. -/

namespace Sys2Proof.Machine

theorem framesWrites_append (fs gs : List (Byte × Byte)) :
    framesWrites (fs ++ gs) = framesWrites fs ++ framesWrites gs := by
  induction fs with
  | nil => rfl
  | cons f fs ih => simp [framesWrites, ih]

/-- The sequence of frames is a matter of the pin trace, the pins and the load alone. -/
theorem FramesInv.of_samePins {s t : State} {fs : List (Byte × Byte)} (h : FramesInv s fs)
    (hTrace : t.pinTrace = s.pinTrace) (hLatch : t.latch = s.latch) (hClock : t.clock = s.clock)
    (hData : t.data = s.data) (hSr : t.sr = s.sr) (hOut : t.out = s.out) : FramesInv t fs where
  trace := hTrace.trans h.trace
  segEntries := h.segEntries
  selEntries := h.selEntries
  rest := by simpa only [hLatch, hClock, hData] using h.rest
  load := by simpa only [hSr, hOut] using h.load

/-- Once a frame has been emitted CLOCK rests at 0 (spec/10_state.md R39). -/
theorem FramesInv.clock_low {s : State} {fs : List (Byte × Byte)} (h : FramesInv s fs) (hne : fs ≠ []) :
    s.clock = false :=
  (h.rest _ (List.getLast?_eq_some_getLast hne)).2.1

/-- A frame of table entries joins the sequence; from the second on CLOCK was low at its start, so the load holds it
(spec/70_reset_and_hazards.md R246). -/
theorem FramesInv.emitFrame {s : State} {fs : List (Byte × Byte)} (h : FramesInv s fs) {seg : Byte}
    (hseg : seg ∈ segTable) (p : Fin 4) : FramesInv (s.emitFrame seg (selRead p)) (fs ++ [(seg, selRead p)]) := by
  rw [State.emitFrame_eq]
  constructor
  case trace => simp [h.trace, framesWrites_append, framesWrites]
  case segEntries => simpa [or_imp, forall_and, hseg] using h.segEntries
  case selEntries => simpa [or_imp, forall_and] using h.selEntries
  case rest => simp
  case load =>
    intro f hf hlen
    obtain rfl : (seg, selRead p) = f := by simpa using hf
    have hne : fs ≠ [] := by rintro rfl; simp at hlen
    simp [h.clock_low hne, loadAfterFrame_false]

/-- Frames of the digits held, at any positions in any order. -/
theorem FramesInv.emitDigits {s : State} {fs : List (Byte × Byte)} (h : FramesInv s fs)
    (hseg : ∀ p, s.digits.get p ∈ segTable) (ps : List (Fin 4)) :
    ∃ gs, FramesInv (ps.foldl (fun t p => t.emitFrame (t.digits.get p) (selRead p)) s) gs := by
  induction ps generalizing s fs with
  | nil => exact ⟨fs, h⟩
  | cons p ps ih =>
    have hdigits : (s.emitFrame (s.digits.get p) (selRead p)).digits = s.digits := by rw [State.emitFrame_eq]
    rw [List.foldl_cons]
    exact ih (h.emitFrame (hseg p) p) (by rw [hdigits]; exact hseg)

end Sys2Proof.Machine
end

section
/-! The alarm trace read block by block (spec/42_display_state_machine.md R166): a block joins at the end. -/

namespace Sys2Proof.Machine

/-- After whole blocks, reading goes on from the state they end in. -/
theorem alarmBlocks_append {c : Config} {e e' : Bool} {before : List AlarmCall} (after : List AlarmCall)
    (h : alarmBlocks c e before = some e') : alarmBlocks c e (before ++ after) = alarmBlocks c e' after := by
  induction e, before using alarmBlocks.induct c with
  | case1 e =>
    obtain rfl : e = e' := by simpa [alarmBlocks] using h
    rfl
  | case2 t rest ih | case4 t rest ih | case6 rest ih => simp_all [alarmBlocks]
  | case3 t u rest hu | case5 t u rest hu | case7 e l => simp_all [alarmBlocks]

end Sys2Proof.Machine
end

section
/-! What an agent schedules is one of its own operations (spec/00_scope.md R7, spec/30_encoding.md R97). -/

namespace Sys2Proof

theorem dispatchCommand_external (k : Nat) (a : CmdArgs) : (dispatchCommand k a).external = true := by
  unfold dispatchCommand
  split_ifs <;> rfl

theorem decodeCommand_external {c : Config} {ws : List Nat} {i : Instr} (h : decodeCommand c ws = .ok i) :
    i.external = true := by
  unfold decodeCommand at h
  split at h
  · split_ifs at h
    cases h
    exact dispatchCommand_external _ _
  · cases h

theorem decodeBare_ok {i j : Instr} {ws : List Nat} (h : decodeBare i ws = .ok j) : j = i := by
  cases ws <;> cases h
  rfl

/-- The input of an agent decodes to a command, `FIRED` or `TICK`. -/
theorem decode_external {c : Config} {inp : Input} {i : Instr} (h : decode c inp = .ok i)
    (hx : inp.external = true) : i.external = true := by
  obtain ⟨port, ws⟩ := inp
  cases port with
  | syscall driver =>
    simp only [decode] at h
    split_ifs at h
    exact decodeCommand_external h
  | callback => rw [decodeBare_ok h]; rfl
  | counter => rw [decodeBare_ok h]; rfl
  | frame => cases hx
  | internal op => cases hx

end Sys2Proof
end

section
/-! The invariant of runs (spec/10_state.md R35 to R40): one lemma for each change an operation of the agents makes. -/

namespace Sys2Proof.Machine

/-- Taking the next input off the schedule. -/
theorem Inv.dropInput {s : State} {inp : Input} {rest : List Input} (h : Inv s) (hq : s.queue = inp :: rest) :
    Inv { s with queue := rest } :=
  { h with
    external := fun j hj => h.external j (hq ▸ List.mem_cons_of_mem inp hj)
    frames := h.frames.imp fun _ f => f.of_samePins rfl rfl rfl rfl rfl rfl }

theorem Inv.returnCode {s : State} (h : Inv s) (rc : ReturnCode) : Inv (s.returnCode rc) :=
  { h with frames := h.frames.imp fun _ f => f.of_samePins rfl rfl rfl rfl rfl rfl }

theorem pendingAfterTick_eq_true {s : State} {n : Nat} :
    pendingAfterTick s n = true ↔ (s.armed = true ∧ n = s.cmp) ∨ s.pending = true := by
  simp [pendingAfterTick, alarmReached]

theorem Inv.tick {s : State} (h : Inv s) : Inv s.tick :=
  { h with
    nowInRange := tickAdd_lt _ _ _
    pendingArmed := fun hp => by
      rcases pendingAfterTick_eq_true.1 hp with ⟨harmed, -⟩ | hpending
      · exact harmed
      · exact h.pendingArmed hpending
    frames := h.frames.imp fun _ f => f.of_samePins rfl rfl rfl rfl rfl rfl }

/-- A pending firing finds the display Enabled (spec/10_state.md R35, R40). -/
theorem Inv.enabled_of_pending {s : State} (h : Inv s) (hp : s.pending = true) : s.enabled = true :=
  h.enabledArmed.trans (h.pendingArmed hp)

/-- A firing appends a scan to the pin trace and a rescheduling block to the alarm trace. -/
theorem Inv.fire {s : State} (h : Inv s) (hp : s.pending = true) : Inv s.fire := by
  have he := h.enabled_of_pending hp
  have hscan : ∃ fs, FramesInv s.scan fs := by
    obtain ⟨fs, f⟩ := h.frames
    exact f.emitDigits h.digitsFromSeg [0, 1, 2, 3]
  rw [State.scan_eq] at hscan
  rw [State.fire_eq]
  exact { h with
    cmpInRange := tickAdd_lt _ _ _
    pendingArmed := by simp
    frames := hscan.imp fun _ f => f.of_samePins rfl rfl rfl rfl rfl rfl
    alarm := by simp [alarmBlocks_append _ h.alarm, alarmBlocks, he] }

/-- Entering Enabled with fresh digits opens the alarm trace's next block. -/
theorem Inv.startRefresh {s : State} (h : Inv s) (he : s.enabled = false)
    (hfresh : s.valueValid = true → encodeValue s.value = some s.digits) : Inv s.startRefresh := by
  rw [State.startRefresh_eq]
  exact { h with
    cmpInRange := tickAdd_lt _ _ _
    enabledArmed := rfl
    digitsFresh := fun _ => hfresh
    pendingArmed := by simp
    frames := h.frames.imp fun _ f => f.of_samePins rfl rfl rfl rfl rfl rfl
    alarm := by simp [alarmBlocks_append _ h.alarm, alarmBlocks, he] }

/-- Digits computed from the stored value may be held in either state of the display. -/
theorem Inv.refreshDigits {s : State} {d : Digits} (h : Inv s) (hv : s.valueValid = true)
    (hd : encodeValue s.value = some d) : Inv { s with digits := d } :=
  { h with
    digitsFresh := fun _ _ => hd
    digitsBlank := fun hv' => by simp [hv] at hv'
    digitsFromSeg := encodeValue_get_mem hd
    frames := h.frames.imp fun _ f => f.of_samePins rfl rfl rfl rfl rfl rfl }

/-- Leaving Enabled appends the blank frame, at position 0's mask, and closes the alarm trace's block. -/
theorem Inv.doDisable {s : State} (h : Inv s) (he : s.enabled = true) : Inv s.doDisable := by
  have hblank : ∃ fs, FramesInv s.blankFrame fs := by
    obtain ⟨fs, f⟩ := h.frames
    exact ⟨_, f.emitFrame (by decide : 0xFF#8 ∈ segTable) 0⟩
  rw [State.blankFrame_eq] at hblank
  rw [State.doDisable_of_enabled he]
  exact { h with
    enabledArmed := rfl
    digitsFresh := by simp
    pendingArmed := by simp
    frames := hblank.imp fun _ f => f.of_samePins rfl rfl rfl rfl rfl rfl
    alarm := by simp [alarmBlocks_append _ h.alarm, alarmBlocks, he] }

/-- A stored number of the domain; its digits must be fresh only while Enabled. -/
theorem Inv.storeValue {s : State} {n : Word16} {d : Digits} (h : Inv s) (hn : n.toNat ≤ 9999)
    (hfresh : s.enabled = true → encodeValue n = some d) (hseg : ∀ p, d.get p ∈ segTable) :
    Inv { s with valueValid := true, value := n, digits := d } :=
  { h with
    digitsFresh := fun he _ => hfresh he
    valueInDomain := fun _ => hn
    digitsBlank := by simp
    digitsFromSeg := hseg
    frames := h.frames.imp fun _ f => f.of_samePins rfl rfl rfl rfl rfl rfl }

/-- Every operation of the three agents keeps the invariant. -/
theorem Inv.kept_by_exec {i : Instr} {s t : State} (h : Inv s) (hi : i.external = true) (hst : exec i s = .next t) : Inv t := by
  rcases exec_external_cases hi hst with ⟨-, rfl⟩ | ⟨-, hp, rfl⟩ | ⟨rc, -, -, rfl⟩ | ⟨a, -, he, hv, rfl⟩ |
    ⟨a, d, -, he, hv, hd, rfl⟩ | ⟨a, -, he, rfl⟩ | ⟨a, n, -, hn, he, rfl⟩ | ⟨a, n, d, -, hn, he, hd, rfl⟩
  · exact h.tick
  · exact h.fire hp
  · exact h.returnCode rc
  · exact (h.startRefresh he (by simp [hv])).returnCode _
  · exact ((h.refreshDigits hv hd).startRefresh he fun _ => hd).returnCode _
  · exact (h.doDisable he).returnCode _
  · exact (h.storeValue hn (by simp [he]) h.digitsFromSeg).returnCode _
  · exact (h.storeValue hn (fun _ => hd) (encodeValue_get_mem hd)).returnCode _

/-- Settles O46: a step is a `TICK` or the operation of an input the invariant knows to be an agent's, and these keep it. -/
theorem invariantKept : Obligations.InvariantKept := by
  intro s t h hst
  rcases step_cases hst with ⟨-, rfl⟩ | ⟨inp, rest, i, hq, hd, hexec⟩
  · exact h.tick
  · have hi : i.external = true := decode_external hd (h.external inp (by simp [hq]))
    exact (h.dropInput hq).kept_by_exec hi hexec

/-- Settles O45: at construction nothing is scheduled, recorded, armed or pending, and the digits are the table's blank. -/
theorem invariantAtReset : Obligations.InvariantAtReset := by
  have hreset (c : Config) (d : ResetDraws) (hd : d.InRange c) : Inv (State.resetWith c d) :=
    { external := by simp [State.resetWith]
      nowInRange := hd.1
      cmpInRange := hd.2
      enabledArmed := rfl
      digitsFresh := by simp [State.resetWith]
      valueInDomain := by simp [State.resetWith]
      digitsBlank := fun _ => rfl
      digitsFromSeg := by simp only [State.resetWith]; decide
      pendingArmed := by simp [State.resetWith]
      frames := ⟨[], rfl, by simp, by simp, by simp, by simp⟩
      alarm := rfl }
  exact ⟨hreset, hreset _ _ (by decide)⟩

/-- Settles O1: each clause is a field of the state after construction, as written there. -/
theorem resetIsConstruction : Obligations.ResetIsConstruction := by
  intro c d
  exact ⟨rfl, rfl, rfl, rfl, rfl, rfl, rfl, rfl, rfl, rfl, rfl, rfl, rfl, rfl, rfl⟩

end Sys2Proof.Machine
end

section
/-! What an operation of the agents needs in order to complete, and what a firing shows. -/

namespace Sys2Proof.Machine

/-- `do_enable` completes when the stored value, if any, is in the domain of `ENCODE` (spec/10_state.md R37). -/
theorem State.doEnable_of_domain {s : State} (h : s.valueValid = true → s.value.toNat ≤ 9999) :
    ∃ t, s.doEnable = some t := by
  cases he : s.enabled
  case true => exact ⟨s, State.doEnable_of_enabled he⟩
  case false =>
    cases hv : s.valueValid
    case false => exact ⟨_, State.doEnable_of_absent he hv⟩
    case true =>
      obtain ⟨d, hd⟩ := encodeValue_of_le (h hv)
      exact ⟨_, State.doEnable_of_value he hv hd⟩

/-- `do_set_value` completes on its domain (R161). -/
theorem State.doSetValue_of_le (s : State) {n : Word16} (hn : n.toNat ≤ 9999) : ∃ t, s.doSetValue n = some t := by
  cases he : s.enabled
  case false => exact ⟨_, State.doSetValue_of_disabled he hn⟩
  case true =>
    obtain ⟨d, hd⟩ := encodeValue_of_le hn
    exact ⟨_, State.doSetValue_of_enabled he hd⟩

/-- Every operation of the three agents completes, `FIRED` only when pending (R157, R200). -/
theorem exec_external_completes {i : Instr} {s : State} (hi : i.external = true)
    (hdom : s.valueValid = true → s.value.toNat ≤ 9999) (hfired : i = .fired → s.pending = true) :
    ∃ t, exec i s = .next t := by
  cases i <;> simp only [Instr.external, Bool.false_eq_true] at hi
  case probe a => exact ⟨_, exec_probe a s⟩
  case enable a =>
    obtain ⟨t, ht⟩ := State.doEnable_of_domain hdom
    exact ⟨_, by rw [exec_enable, ht]; rfl⟩
  case disable a => exact ⟨_, exec_disable a s⟩
  case setValue a =>
    rw [exec_setValue]
    split
    · exact ⟨_, rfl⟩
    · obtain ⟨t, ht⟩ := s.doSetValue_of_le (Nat.not_lt.1 ‹_›)
      exact ⟨_, by rw [ht]; rfl⟩
  case unsupported k a => exact ⟨_, exec_unsupported k a s⟩
  case fired => exact ⟨_, exec_fired_of_pending (hfired rfl)⟩
  case tick => exact ⟨_, exec_tick s⟩

/-- Settles O42: a scheduled input is an agent's, and the stored value is in the domain, so its operation completes. -/
theorem blockNeverHalts : Obligations.BlockNeverHalts := by
  intro s h
  constructor
  · intro hq
    exact ⟨_, step_of_nil hq⟩
  · intro inp rest i hq hd hfired
    have hi : i.external = true := decode_external hd (h.external inp (by simp [hq]))
    rw [step_of_ok hq hd]
    exact exec_external_completes hi h.valueInDomain hfired

/-- A pending firing appends the scan of the digits held (R162). -/
theorem exec_fired_pinTrace {s : State} (hp : s.pending = true) :
    ∃ t, exec .fired s = .next t ∧ t.pinTrace = s.pinTrace ++ scanWrites s.digits :=
  ⟨s.fire, exec_fired_of_pending hp, by rw [State.fire_eq]⟩

/-- Settles O44: pending implies Enabled, where the digits held are `ENCODE(value)`, or blank without a value. -/
theorem firingShowsStoredValue : Obligations.FiringShowsStoredValue := by
  intro s h hp
  obtain ⟨t, hexec, htrace⟩ := exec_fired_pinTrace hp
  constructor
  · intro hv
    exact ⟨s.digits, t, h.digitsFresh (h.enabled_of_pending hp) hv, hexec, htrace⟩
  · intro hv
    rw [h.digitsBlank hv] at htrace
    exact ⟨t, hexec, by simpa [scanWrites] using htrace⟩

end Sys2Proof.Machine
end

section
/-! Every operation, scheduled by an agent or called by name, is a sequence of elementary moves: what each move keeps, every
operation keeps. -/

namespace Sys2Proof.Machine

/-- The elementary moves: the primitives of the pins (R130), the alarm (R151 to R154) and the caller, and the writes to
single registers. No move makes a value absent. -/
inductive Move : State → State → Prop
  | pinOp (s : State) (p : Pin) (l : Bool) : Move s (s.pinOp p l)
  | callNow (s : State) : Move s s.callNow
  | callSetAlarm (s : State) (t : Nat) : Move s (s.callSetAlarm t)
  | callEnable (s : State) : Move s s.callEnable
  | callDisable (s : State) : Move s s.callDisable
  | handBack (s : State) (r : Returned) : Move s (s.handBack r)
  | tick (s : State) : Move s s.tick
  | clearPending (s : State) : Move s { s with pending := false }
  | setEnabled (s : State) (b : Bool) : Move s { s with enabled := b }
  | setDigits (s : State) (d : Digits) : Move s { s with digits := d }
  | setValue (s : State) (n : Word16) : Move s { s with valueValid := true, value := n }

/-- Any number of moves. -/
abbrev Moves : State → State → Prop := Relation.ReflTransGen Move

/-- A loop each of whose turns is made of moves is made of moves. -/
theorem moves_foldl {α : Type} {f : State → α → State} (h : ∀ s a, Moves s (f s a)) (as : List α) (s : State) :
    Moves s (as.foldl f s) := by
  induction as generalizing s with
  | nil => exact .refl
  | cons a as ih => exact (h s a).trans (ih _)

theorem moves_shiftByte (s : State) (v : Byte) : Moves s (s.shiftByte v) :=
  moves_foldl (fun _ _ => ((Relation.ReflTransGen.single (.pinOp _ _ _)).tail (.pinOp _ _ _)).tail (.pinOp _ _ _)) _ s

theorem moves_emitFrame (s : State) (seg sel : Byte) : Moves s (s.emitFrame seg sel) :=
  (((Relation.ReflTransGen.single (.pinOp _ _ _)).trans (moves_shiftByte _ seg)).trans (moves_shiftByte _ sel)).tail
    (.pinOp _ _ _)

theorem moves_scan (s : State) : Moves s s.scan :=
  moves_foldl (fun _ _ => moves_emitFrame _ _ _) _ s

theorem moves_reschedule (s : State) : Moves s s.reschedule :=
  (Relation.ReflTransGen.single (.callNow s)).tail (.callSetAlarm _ _)

theorem moves_fire (s : State) : Moves s s.fire :=
  ((Relation.ReflTransGen.single (.clearPending s)).trans (moves_scan _)).trans (moves_reschedule _)

theorem moves_startRefresh (s : State) : Moves s s.startRefresh :=
  ((moves_reschedule s).tail (.callEnable _)).tail (.setEnabled _ _)

theorem moves_doEnable {s t : State} (h : s.doEnable = some t) : Moves s t := by
  rcases State.doEnable_cases h with ⟨-, rfl⟩ | ⟨-, -, rfl⟩ | ⟨-, -, d, -, rfl⟩
  · exact .refl
  · exact moves_startRefresh s
  · exact (Relation.ReflTransGen.single (.setDigits s d)).trans (moves_startRefresh _)

theorem moves_doDisable (s : State) : Moves s s.doDisable := by
  unfold State.doDisable
  split
  · exact ((Relation.ReflTransGen.single (.callDisable s)).trans (moves_emitFrame _ _ _)).tail (.setEnabled _ _)
  · exact .refl

theorem moves_doSetValue {s t : State} {n : Word16} (h : s.doSetValue n = some t) : Moves s t := by
  obtain ⟨-, ⟨-, rfl⟩ | ⟨-, d, -, rfl⟩⟩ := State.doSetValue_cases h
  · exact .single (.setValue s n)
  · exact (Relation.ReflTransGen.single (.setValue s n)).tail (.setDigits _ d)

theorem moves_returnCode {s t : State} (h : Moves s t) (rc : ReturnCode) : Moves s (t.returnCode rc) :=
  h.tail (.handBack _ _)

/-- Every operation that completes is made of moves. -/
theorem exec_moves {i : Instr} {s t : State} (h : exec i s = .next t) : Moves s t := by
  cases i with
  | probe a | unsupported k a => exact next_inj h ▸ moves_returnCode .refl _
  | enable a =>
    obtain ⟨u, hu, rfl⟩ := Option.map_eq_some_iff.1 (encodedOrRefused_next h)
    exact moves_returnCode (moves_doEnable hu) _
  | disable a => exact next_inj h ▸ moves_returnCode (moves_doDisable s) _
  | setValue a =>
    rw [exec_setValue] at h
    split at h
    · exact next_inj h ▸ moves_returnCode .refl _
    · obtain ⟨u, hu, rfl⟩ := Option.map_eq_some_iff.1 (encodedOrRefused_next h)
      exact moves_returnCode (moves_doSetValue hu) _
  | fired =>
    rw [exec_fired] at h
    split at h
    · exact next_inj h ▸ moves_fire s
    · cases h
  | tick => exact next_inj h ▸ .single (.tick s)
  | encodeDigits n =>
    obtain ⟨d, -, rfl⟩ := Option.map_eq_some_iff.1 (encodedOrRefused_next h)
    exact .single (.handBack s _)
  | shiftByte v => exact next_inj h ▸ moves_shiftByte s v
  | emitFrame seg sel => exact next_inj h ▸ moves_emitFrame s seg sel
  | scan => exact next_inj h ▸ moves_scan s
  | blankFrame => exact next_inj h ▸ moves_emitFrame s _ _
  | doEnable => exact moves_doEnable (encodedOrRefused_next h)
  | doDisable => exact next_inj h ▸ moves_doDisable s
  | doSetValue n => exact moves_doSetValue (encodedOrRefused_next h)
  | pinOp p l => exact next_inj h ▸ .single (.pinOp s p l)
  | alarmNow => exact next_inj h ▸ (Relation.ReflTransGen.single (.callNow s)).tail (.handBack _ _)
  | setAlarm u => exact next_inj h ▸ .single (.callSetAlarm s u)
  | alarmEnable => exact next_inj h ▸ .single (.callEnable s)
  | alarmDisable => exact next_inj h ▸ .single (.callDisable s)

theorem Move.pinTrace_prefix {s t : State} (h : Move s t) : s.pinTrace <+: t.pinTrace := by
  cases h <;> simp

theorem Move.alarmTrace_prefix {s t : State} (h : Move s t) : s.alarmTrace <+: t.alarmTrace := by
  cases h <;> simp

theorem Move.returns_prefix {s t : State} (h : Move s t) : s.returns <+: t.returns := by
  cases h <;> simp

theorem Move.valueValid {s t : State} (h : Move s t) (hv : s.valueValid = true) : t.valueValid = true := by
  cases h <;> simp [hv]

/-- A list that every move leaves or extends at its end is extended at its end by any number of moves. -/
theorem Moves.extends {α : Type} {f : State → List α} (hf : ∀ {s t}, Move s t → f s <+: f t) {s t : State}
    (h : Moves s t) : ∃ l, f t = f s ++ l := by
  have hprefix : f s <+: f t := by
    induction h with
    | refl => exact List.prefix_rfl
    | tail _ hmove ih => exact ih.trans (hf hmove)
  obtain ⟨l, hl⟩ := hprefix
  exact ⟨l, hl.symm⟩

theorem Moves.valueValid {s t : State} (h : Moves s t) (hv : s.valueValid = true) : t.valueValid = true := by
  induction h with
  | refl => exact hv
  | tail _ hmove ih => exact hmove.valueValid ih

/-- Settles O40: an operation is made of moves, and each move leaves a list or appends to it. -/
theorem tracesOnlyGrow : Obligations.TracesOnlyGrow := by
  intro i s t h
  have hmoves := exec_moves h
  exact ⟨Moves.extends Move.pinTrace_prefix hmoves, Moves.extends Move.alarmTrace_prefix hmoves,
    Moves.extends Move.returns_prefix hmoves⟩

/-- Settles O41: a step takes an input off the schedule and runs an operation, whose moves keep a value present. -/
theorem valueStaysPresent : Obligations.ValueStaysPresent := by
  intro s t hv hst
  rcases step_cases hst with ⟨-, rfl⟩ | ⟨inp, rest, i, -, -, hexec⟩
  · exact hv
  · exact (exec_moves hexec).valueValid hv

end Sys2Proof.Machine
end

section
/-! The writer table (spec/10_state.md R41). -/

namespace Sys2Proof.Machine

/-- Settles O39, along everything an operation of the agents can do: each case writes the registers its row lists. -/
theorem writerTable : Obligations.WriterTable := by
  intro i s t hi hst
  rcases exec_external_cases hi hst with ⟨rfl, rfl⟩ | ⟨rfl, hp, rfl⟩ | ⟨rc, -, -, rfl⟩ | ⟨a, rfl, he, hv, rfl⟩ |
    ⟨a, d, rfl, he, hv, hd, rfl⟩ | ⟨a, rfl, he, rfl⟩ | ⟨a, n, rfl, hn, he, rfl⟩ | ⟨a, n, d, rfl, hn, he, hd, rfl⟩
  · -- `TICK`: the counter, and `pending` only upwards
    simp [pendingAfterTick]
  · -- `FIRED`: the pins, the load, `cmp`, and `pending` downwards
    simp [State.fire_eq]
  · -- a command that only answers
    simp +contextual
  · -- `ENABLE` from Disabled without a value: no digits
    simp [State.startRefresh_eq, he]
  · -- `ENABLE` from Disabled with a value
    simp [State.startRefresh_eq, he, hv]
  · -- `DISABLE` from Enabled: the alarm and the blank frame
    simp [State.doDisable_of_enabled he, he]
  · -- `SETVALUE` while Disabled: no digits
    simp +contextual
  · -- `SETVALUE` while Enabled
    simp +contextual [he]

end Sys2Proof.Machine
end

section
/-! The constant tables (spec/20_memory.md R51, R52). -/

namespace Sys2Proof.Machine

/-- `SEG` has eleven entries (spec/20_memory.md R51). -/
theorem segRead_eq_none_iff {i : Nat} : segRead i = none ↔ 10 < i :=
  List.getElem?_eq_none_iff

/-- The mask of position `p` (spec/20_memory.md R52). -/
theorem selRead_eq (p : Fin 4) : selRead p = 0xF0#8 ||| (1#8 <<< p.val) := by
  fin_cases p <;> rfl

/-- Settles O8: the fifteen printed bytes are the tables' entries; the length of `SEG` and the mask's formula are lemmas. -/
theorem tablesAsPrinted : Obligations.TablesAsPrinted :=
  ⟨rfl, rfl, rfl, rfl, rfl, rfl, rfl, rfl, rfl, rfl, rfl, fun _ => segRead_eq_none_iff.2, rfl, rfl, rfl, rfl, selRead_eq⟩

end Sys2Proof.Machine
end

section
/-! Repeated commands (spec/20_memory.md R63): each transition of the display ends where repeating it does nothing, whatever
has been returned in between. -/

namespace Sys2Proof.Machine

theorem State.enabled_of_doEnable {s t : State} (h : s.doEnable = some t) : t.enabled = true := by
  rcases State.doEnable_cases h with ⟨he, rfl⟩ | ⟨-, -, rfl⟩ | ⟨-, -, d, -, rfl⟩
  · exact he
  · rfl
  · rfl

theorem State.doDisable_enabled (s : State) : s.doDisable.enabled = false := by
  cases he : s.enabled
  · rw [State.doDisable_of_disabled he, he]
  · rw [State.doDisable_of_enabled he]

theorem State.doSetValue_returnCode_again {s t : State} {n : Word16} (h : s.doSetValue n = some t) (rc : ReturnCode) :
    (t.returnCode rc).doSetValue n = some (t.returnCode rc) := by
  obtain ⟨hn, ⟨he, rfl⟩ | ⟨he, d, hd, rfl⟩⟩ := State.doSetValue_cases h
  · exact State.doSetValue_of_disabled he hn
  · exact State.doSetValue_of_enabled he hd

theorem exec_enable_again {a : CmdArgs} {s t : State} (h : exec (.enable a) s = .next t) :
    exec (.enable a) t = .next (t.returnCode .success) := by
  obtain ⟨u, hu, rfl⟩ := Option.map_eq_some_iff.1 (encodedOrRefused_next h)
  have he : u.enabled = true := State.enabled_of_doEnable hu
  rw [exec_enable, State.doEnable_of_enabled (s := u.returnCode .success) he]
  rfl

theorem exec_disable_again {a : CmdArgs} {s t : State} (h : exec (.disable a) s = .next t) :
    exec (.disable a) t = .next (t.returnCode .success) := by
  obtain rfl := next_inj h
  have he : (s.doDisable.returnCode .success).enabled = false := s.doDisable_enabled
  rw [exec_disable, State.doDisable_of_disabled he]

/-- A refused number is refused again; an accepted one is stored already. -/
theorem exec_setValue_again {a : CmdArgs} {s t : State} (h : exec (.setValue a) s = .next t) :
    ∃ rc, exec (.setValue a) t = .next (t.returnCode rc) := by
  rw [exec_setValue] at h
  split at h
  case isTrue hn => exact ⟨.notSupported, by rw [exec_setValue, if_pos hn]⟩
  case isFalse hn =>
    obtain ⟨u, hu, rfl⟩ := Option.map_eq_some_iff.1 (encodedOrRefused_next h)
    refine ⟨.success, ?_⟩
    rw [exec_setValue, if_neg hn, State.doSetValue_returnCode_again hu]
    rfl

/-- Settles O37: after `ENABLE` the display is Enabled, after `DISABLE` Disabled, after `SETVALUE` the number is stored or
refused as before, so the second issue only returns its code. -/
theorem commandsIdempotent : Obligations.CommandsIdempotent := by
  rintro s t a _ (rfl | rfl | rfl) h
  · exact exec_setValue_again h
  · exact ⟨_, exec_enable_again h⟩
  · exact ⟨_, exec_disable_again h⟩

end Sys2Proof.Machine
end

section
/-! The decoder, one equation for what each port answers when its operands fit (spec/30_encoding.md R81, R83, R86). -/

namespace Sys2Proof

theorem CmdArgs.wellFormed_iff {c : Config} {a : CmdArgs} :
    a.wellFormed c = true ↔ a.data1 < 2 ^ c.wWord ∧ a.data2 < 2 ^ c.wWord := by
  simp [CmdArgs.wellFormed]

theorem dispatchCommand_of_gt {k : Nat} (h : 3 < k) (a : CmdArgs) : dispatchCommand k a = .unsupported k a := by
  rw [dispatchCommand, if_neg (by omega), if_neg (by omega), if_neg (by omega), if_neg (by omega)]

/-- A command tuple of `W_WORD`-bit numbers is dispatched on its number (R83). -/
theorem decode_commandInput {c : Config} {k : Nat} {a : CmdArgs} (hk : k < 2 ^ c.wWord) (ha : a.wellFormed c = true) :
    decode c (commandInput k a) = .ok (dispatchCommand k a) :=
  if_pos ⟨hk, CmdArgs.wellFormed_iff.1 ha⟩

/-- A command tuple that decodes at all has a number of `W_WORD` bits. -/
theorem cmdNum_lt_of_decode_ok {c : Config} {k : Nat} {a : CmdArgs} {i : Instr} (h : decode c (commandInput k a) = .ok i) :
    k < 2 ^ c.wWord := by
  by_contra hk
  have hwide : decode c (commandInput k a) = .error .operandTooWide := if_neg fun hfit => hk hfit.1
  cases hwide.symm.trans h

theorem decode_otherDriver {driver : Nat} (h : driver ≠ driverNum) (c : Config) (ws : List Nat) :
    decode c ⟨.syscall driver, ws⟩ = .error .otherDriver :=
  if_neg h

theorem decodeNumber_toNat (op : Word16 → Instr) {n : Word16} (h : n.toNat ≤ 9999) :
    decodeNumber op [n.toNat] = .ok (op n) := by
  simp [decodeNumber, h]

theorem decodeShiftByte_toNat (v : Byte) : decodeShiftByte [v.toNat] = .ok (.shiftByte v) := by
  simp [decodeShiftByte, v.isLt]

theorem decodeEmitFrame_toNat (seg sel : Byte) : decodeEmitFrame [seg.toNat, sel.toNat] = .ok (.emitFrame seg sel) := by
  simp [decodeEmitFrame, seg.isLt, sel.isLt]

/-- Settles O4, by the port each operation is encoded for: a command is dispatched on its own number, an operand of an
internal operation is read back from its bits, and an operation without operands decodes by computation. -/
theorem decodeOfEncode : Obligations.DecodeOfEncode := by
  intro c i h
  have small {k : Nat} (hk : k ≤ 3) : k < 2 ^ c.wWord := Laws.OperandsFit.small_fits c hk
  cases i with
  | probe a => exact decode_commandInput (small (by decide)) h
  | enable a => exact decode_commandInput (small (by decide)) h
  | disable a => exact decode_commandInput (small (by decide)) h
  | setValue a => exact decode_commandInput (small (by decide)) h
  | unsupported k a =>
    obtain ⟨⟨hgt, hk⟩, ha⟩ : (3 < k ∧ k < 2 ^ c.wWord) ∧ a.wellFormed c = true := by simpa [Instr.wellFormed] using h
    rw [encode, decode_commandInput hk ha, dispatchCommand_of_gt hgt]
  | encodeDigits n => exact decodeNumber_toNat .encodeDigits (of_decide_eq_true h)
  | doSetValue n => exact decodeNumber_toNat .doSetValue (of_decide_eq_true h)
  | shiftByte v => exact decodeShiftByte_toNat v
  | emitFrame seg sel => exact decodeEmitFrame_toNat seg sel
  | setAlarm t => exact if_pos (of_decide_eq_true h)
  | fired | tick | scan | blankFrame | doEnable | doDisable | pinOp p l | alarmNow | alarmEnable | alarmDisable => rfl

/-- Settles O6: the number decides the dispatch, one case per row of the command map; another driver's call ends before it. -/
theorem everyTupleDispatched : Obligations.EveryTupleDispatched := by
  intro c k d1 d2 app hk hd1 hd2
  refine ⟨?_, fun driver h => decode_otherDriver h c _⟩
  have hdispatch : decode c (commandInput k ⟨d1, d2, app⟩) = .ok (dispatchCommand k ⟨d1, d2, app⟩) :=
    decode_commandInput hk (CmdArgs.wellFormed_iff.2 ⟨hd1, hd2⟩)
  match k with
  | 0 | 1 | 2 | 3 => exact hdispatch
  | k' + 4 => exact hdispatch.trans (by rw [dispatchCommand_of_gt (by omega)])

/-- Settles O3: each input is closed and the decoder computes. -/
theorem writtenInputsDecode : Obligations.WrittenInputsDecode := by
  unfold Obligations.WrittenInputsDecode
  decide

end Sys2Proof
end

section
/-! What the decoder can answer (spec/30_encoding.md R81, R83, R97): one inversion lemma per kind of operand. -/

namespace Sys2Proof

theorem dispatchCommand_wellFormed {c : Config} {k : Nat} {a : CmdArgs} (hk : k < 2 ^ c.wWord)
    (ha : a.wellFormed c = true) : (dispatchCommand k a).wellFormed c = true := by
  unfold dispatchCommand
  split_ifs
  case neg =>
    have hgt : 3 < k := by omega
    simp [Instr.wellFormed, hgt, hk, ha]
  all_goals exact ha

theorem decodeCommand_wellFormed {c : Config} {ws : List Nat} {i : Instr} (h : decodeCommand c ws = .ok i) :
    i.wellFormed c = true := by
  unfold decodeCommand at h
  split at h
  · split_ifs at h with hfit
    cases h
    exact dispatchCommand_wellFormed hfit.1 (CmdArgs.wellFormed_iff.2 hfit.2)
  · cases h

theorem decodeFrame_ok {ws : List Nat} {i : Instr} (h : decodeFrame ws = .ok i) :
    i = .blankFrame ∨ ∃ seg sel, i = .emitFrame seg sel := by
  unfold decodeFrame at h
  split at h
  · split_ifs at h <;> cases h
    · exact .inl rfl
    · exact .inr ⟨_, _, rfl⟩
  · cases h

theorem decodeNumber_ok {op : Word16 → Instr} {ws : List Nat} {i : Instr} (h : decodeNumber op ws = .ok i) :
    ∃ n : Word16, n.toNat ≤ 9999 ∧ i = op n := by
  unfold decodeNumber at h
  split at h
  · split_ifs at h with hn
    cases h
    exact ⟨_, (Nat.mod_le _ _).trans hn, rfl⟩
  · cases h

theorem decodeShiftByte_ok {ws : List Nat} {i : Instr} (h : decodeShiftByte ws = .ok i) : ∃ v, i = .shiftByte v := by
  unfold decodeShiftByte at h
  split at h
  · split_ifs at h
    cases h
    exact ⟨_, rfl⟩
  · cases h

theorem decodeEmitFrame_ok {ws : List Nat} {i : Instr} (h : decodeEmitFrame ws = .ok i) :
    ∃ seg sel, i = .emitFrame seg sel := by
  unfold decodeEmitFrame at h
  split at h
  · split_ifs at h
    cases h
    exact ⟨_, _, rfl⟩
  · cases h

theorem decodeSetAlarm_ok {c : Config} {ws : List Nat} {i : Instr} (h : decodeSetAlarm c ws = .ok i) :
    ∃ t, t < 2 ^ c.wTick ∧ i = .setAlarm t := by
  unfold decodeSetAlarm at h
  split at h
  · split_ifs at h with ht
    cases h
    exact ⟨_, ht, rfl⟩
  · cases h

/-- An operation called by name is well-formed and belongs to no agent (log 8). -/
theorem decodeInternal_ok {c : Config} {op : InternalOp} {ws : List Nat} {i : Instr} (h : decodeInternal c op ws = .ok i) :
    i.wellFormed c = true ∧ i.external = false := by
  cases op with
  | encodeDigits | doSetValue =>
    obtain ⟨n, hn, rfl⟩ := decodeNumber_ok h
    exact ⟨decide_eq_true hn, rfl⟩
  | shiftByte =>
    obtain ⟨v, rfl⟩ := decodeShiftByte_ok h
    exact ⟨rfl, rfl⟩
  | emitFrame =>
    obtain ⟨seg, sel, rfl⟩ := decodeEmitFrame_ok h
    exact ⟨rfl, rfl⟩
  | setAlarm =>
    obtain ⟨t, ht, rfl⟩ := decodeSetAlarm_ok h
    exact ⟨decide_eq_true ht, rfl⟩
  | scan | doEnable | doDisable | pinOp p l | alarmNow | alarmEnable | alarmDisable =>
    rw [decodeBare_ok h]
    exact ⟨rfl, rfl⟩

/-- Settles O5, by the port of the input: the three agents' ports answer operations of the agents, the frame port and the
names never do, and each decoder has tested its operands. -/
theorem decodedIsWellFormed : Obligations.DecodedIsWellFormed := by
  rintro c ⟨port, ws⟩ i h
  cases port with
  | syscall driver =>
    simp only [decode] at h
    split_ifs at h
    exact ⟨decodeCommand_wellFormed h, decodeCommand_external h⟩
  | callback | counter =>
    rw [decodeBare_ok h]
    exact ⟨rfl, rfl⟩
  | frame =>
    rcases decodeFrame_ok h with rfl | ⟨seg, sel, rfl⟩
    · exact ⟨rfl, rfl⟩
    · exact ⟨rfl, rfl⟩
  | internal op => exact decodeInternal_ok h

end Sys2Proof
end

section
/-! Frame words (spec/30_encoding.md R86): `seg` in bits 15 to 8, `sel` in bits 7 to 0. -/

namespace Sys2Proof

theorem extractLsb'_high_of_word {w : Nat} (h : w < 2 ^ 16) :
    (BitVec.ofNat 16 w).extractLsb' 8 8 = BitVec.ofNat 8 (w / 256) := by
  rw [BitVec.extractLsb', BitVec.toNat_ofNat, Nat.mod_eq_of_lt h, Nat.shiftRight_eq_div_pow]

theorem extractLsb'_low_of_word (w : Nat) :
    (BitVec.ofNat 16 w).extractLsb' 0 8 = BitVec.ofNat 8 (w % 256) := by
  apply BitVec.eq_of_toNat_eq
  simp

theorem decodeFrame_of_word {w : Nat} (h : w < 2 ^ 16) (hne : w ≠ 0xFFF1) :
    decodeFrame [w] =
      .ok (.emitFrame ((BitVec.ofNat 16 w).extractLsb' 8 8) ((BitVec.ofNat 16 w).extractLsb' 0 8)) := by
  rw [extractLsb'_high_of_word h, extractLsb'_low_of_word, decodeFrame, if_neg hne, if_pos h]

theorem decodeFrame_of_wide {w : Nat} (h : 2 ^ 16 ≤ w) : decodeFrame [w] = .error .operandTooWide := by
  rw [decodeFrame, if_neg (by omega), if_neg (by omega)]

/-- A 16-bit row of the table is read on the frame port (log 9). -/
theorem decodeTableWord_of_frame {w : Nat} {i : Instr} (h : w < 2 ^ 16) (hd : decodeFrame [w] = .ok i) :
    decodeTableWord 16 w = some i := by
  have hinput : tableInput 16 w = ⟨.frame, [w]⟩ := by simpa [tableInput] using h
  rw [decodeTableWord, hinput, decode, hd]

/-- Settles O50: the frame port splits a word into its bytes after two tests, and the table's numbering reads on it. -/
theorem frameWordsDecode : Obligations.FrameWordsDecode := by
  intro c w
  refine ⟨fun h hne => ?_, rfl, decodeTableWord_of_frame (by decide) rfl, decodeFrame_of_wide, rfl, fun _ _ => rfl⟩
  have hframe := decodeFrame_of_word h hne
  exact ⟨hframe, decodeTableWord_of_frame h hframe⟩

end Sys2Proof
end

section
/-! Ignored operands (spec/30_encoding.md R84, R85; spec/43_command_surface.md R197): they reach no operation's meaning, and no
operation reads the schedule or writes it. -/

namespace Sys2Proof.Machine

theorem Move.cfg_queue {s t : State} (h : Move s t) : t.cfg = s.cfg ∧ t.queue = s.queue := by
  cases h <;> exact ⟨rfl, rfl⟩

theorem exec_cfg_queue {i : Instr} {s t : State} (h : exec i s = .next t) : t.cfg = s.cfg ∧ t.queue = s.queue := by
  have hmoves := exec_moves h
  clear h
  induction hmoves with
  | refl => exact ⟨rfl, rfl⟩
  | tail _ hmove ih => exact ⟨hmove.cfg_queue.1.trans ih.1, hmove.cfg_queue.2.trans ih.2⟩

theorem State.doEnable_withQueue {s t : State} (h : s.doEnable = some t) (q : List Input) :
    { s with queue := q }.doEnable = some { t with queue := q } := by
  rcases State.doEnable_cases h with ⟨he, rfl⟩ | ⟨he, hv, rfl⟩ | ⟨he, hv, d, hd, rfl⟩
  · exact State.doEnable_of_enabled he
  · exact State.doEnable_of_absent he hv
  · exact State.doEnable_of_value he hv hd

theorem State.doDisable_withQueue (s : State) (q : List Input) :
    { s with queue := q }.doDisable = { s.doDisable with queue := q } := by
  rcases Bool.eq_false_or_eq_true s.enabled with he | he
  · rw [State.doDisable_of_enabled he, State.doDisable_of_enabled (s := { s with queue := q }) he]
  · rw [State.doDisable_of_disabled he, State.doDisable_of_disabled (s := { s with queue := q }) he]

theorem State.doSetValue_withQueue {s t : State} {n : Word16} (h : s.doSetValue n = some t) (q : List Input) :
    { s with queue := q }.doSetValue n = some { t with queue := q } := by
  obtain ⟨hn, ⟨he, rfl⟩ | ⟨he, d, hd, rfl⟩⟩ := State.doSetValue_cases h
  · exact State.doSetValue_of_disabled he hn
  · exact State.doSetValue_of_enabled he hd

/-- No operation reads the schedule: with another one it does the same to everything else. -/
theorem exec_withQueue {i : Instr} {s t : State} (h : exec i s = .next t) (q : List Input) :
    exec i { s with queue := q } = .next { t with queue := q } := by
  cases i with
  | probe a | unsupported k a | tick | pinOp p l | alarmNow | setAlarm u | alarmEnable | alarmDisable =>
    obtain rfl := next_inj h
    rfl
  | enable a =>
    obtain ⟨u, hu, rfl⟩ := Option.map_eq_some_iff.1 (encodedOrRefused_next h)
    rw [exec_enable, State.doEnable_withQueue hu]
    rfl
  | disable a =>
    obtain rfl := next_inj h
    rw [exec_disable, State.doDisable_withQueue]
    rfl
  | setValue a =>
    rw [exec_setValue] at h ⊢
    split at h
    case isTrue hgt =>
      obtain rfl := next_inj h
      exact if_pos hgt
    case isFalse hle =>
      obtain ⟨u, hu, rfl⟩ := Option.map_eq_some_iff.1 (encodedOrRefused_next h)
      rw [if_neg hle, State.doSetValue_withQueue hu]
      rfl
  | fired =>
    rw [exec_fired] at h
    split at h
    case isTrue hp =>
      obtain rfl := next_inj h
      rw [exec_fired_of_pending (s := { s with queue := q }) hp, State.fire_eq, State.fire_eq]
    case isFalse => cases h
  | encodeDigits n =>
    obtain ⟨d, hd, rfl⟩ := Option.map_eq_some_iff.1 (encodedOrRefused_next h)
    rw [exec_encodeDigits, hd]
    rfl
  | shiftByte v =>
    obtain rfl := next_inj h
    rw [exec_shiftByte, State.shiftByte_eq, State.shiftByte_eq]
  | emitFrame seg sel =>
    obtain rfl := next_inj h
    rw [exec_emitFrame, State.emitFrame_eq, State.emitFrame_eq]
  | scan =>
    obtain rfl := next_inj h
    rw [exec_scan, State.scan_eq, State.scan_eq]
  | blankFrame =>
    obtain rfl := next_inj h
    rw [exec_blankFrame, State.blankFrame_eq, State.blankFrame_eq]
  | doEnable => rw [exec_doEnable, State.doEnable_withQueue (encodedOrRefused_next h), encodedOrRefused]
  | doDisable =>
    obtain rfl := next_inj h
    rw [exec_doDisable, State.doDisable_withQueue]
  | doSetValue n => rw [exec_doSetValue, State.doSetValue_withQueue (encodedOrRefused_next h), encodedOrRefused]

theorem setValueOperand_congr {d e : Nat} (h : d % 2 ^ 16 = e % 2 ^ 16) : setValueOperand d = setValueOperand e :=
  BitVec.eq_of_toNat_eq (by simpa [setValueOperand] using h)

/-- The meaning of a command does not depend on its ignored operands. -/
theorem exec_dispatchCommand_congr {k : Nat} {a b : CmdArgs} (h : k = 3 → a.data1 % 2 ^ 16 = b.data1 % 2 ^ 16) :
    exec (dispatchCommand k a) = exec (dispatchCommand k b) := by
  unfold dispatchCommand
  split_ifs with h0 h1 h2 h3
  · rfl
  · rfl
  · rfl
  · -- `SETVALUE`, whose low 16 bits agree
    funext s
    rw [exec_setValue, exec_setValue, setValueOperand_congr (h h3)]
  · rfl

/-- Inputs that differ at most in ignored operands decode to operations of one meaning. -/
theorem decode_sameButIgnored {c : Config} {inp inp' : Input} {i : Instr} (h : Input.SameButIgnored c inp inp')
    (hd : decode c inp = .ok i) : ∃ j, decode c inp' = .ok j ∧ exec j = exec i := by
  cases h with
  | same => exact ⟨i, hd, rfl⟩
  | command k d1 d2 app e1 e2 app' hd1 hd2 he1 he2 hlow =>
    have hk := cmdNum_lt_of_decode_ok hd
    rw [decode_commandInput hk (CmdArgs.wellFormed_iff.2 ⟨hd1, hd2⟩)] at hd
    cases hd
    exact ⟨_, decode_commandInput hk (CmdArgs.wellFormed_iff.2 ⟨he1, he2⟩), (exec_dispatchCommand_congr hlow).symm⟩

/-- One step under two alike schedules: alike schedules stay, everything else agrees. -/
theorem step_schedulesAlike {s t : State} {q : List Input} (hq : SchedulesAlike s.cfg s.queue q) (hst : step s = .next t) :
    ∃ q', SchedulesAlike t.cfg t.queue q' ∧ t.cfg = s.cfg ∧ step { s with queue := q } = .next { t with queue := q' } := by
  rcases step_cases hst with ⟨hnil, rfl⟩ | ⟨inp, rest, i, hcons, hd, hexec⟩
  · rw [hnil] at hq
    cases hq
    exact ⟨[], by rw [State.tick_queue, hnil]; exact .nil, rfl, step_of_nil rfl⟩
  · rw [hcons] at hq
    cases hq with
    | @cons _ inp' _ rest' hsame halike =>
      obtain ⟨j, hj, hmeaning⟩ := decode_sameButIgnored hsame hd
      obtain ⟨hcfg, hqueue⟩ := exec_cfg_queue hexec
      refine ⟨rest', ?_, hcfg, ?_⟩
      · rw [hcfg, hqueue]
        exact halike
      · rw [step_of_ok (s := { s with queue := inp' :: rest' }) rfl hj, hmeaning]
        exact exec_withQueue hexec rest'

/-- Settles O49, by induction on the number of steps: each step keeps the two schedules alike and the rest equal. -/
theorem ignoredOperandsDoNotMatter : Obligations.IgnoredOperandsDoNotMatter := by
  intro k
  induction k with
  | zero =>
    intro s t q hq hrun
    obtain rfl := next_inj hrun
    exact ⟨q, hq, rfl⟩
  | succ k ih =>
    intro s t q hq hrun
    obtain ⟨u, hstep, hrest⟩ := run_succ_next hrun
    obtain ⟨q₁, halike, hcfg, hstep'⟩ := step_schedulesAlike hq hstep
    obtain ⟨q', halike', hrest'⟩ := ih u t q₁ halike hrest
    exact ⟨q', hcfg ▸ halike', (run_succ_of_step hstep').trans hrest'⟩

end Sys2Proof.Machine
end

section
/-! The Digit Encoder's bytes (spec/40_digit_encoder.md R110, R111, R115, R116): `SEG` has no entry twice, so a byte tells its
digit code, and the four codes tell the number. -/

namespace Sys2Proof.Machine

/-! ### The segment table read backwards -/

theorem segTable_nodup : segTable.Nodup := by decide

theorem segTable_bit7 {b : Byte} (h : b ∈ segTable) : b.getLsbD 7 = true := by
  revert b
  decide

theorem segRead_injective {i j : Nat} {b : Byte} (hi : segRead i = some b) (hj : segRead j = some b) : i = j :=
  (List.getElem?_inj (List.getElem?_eq_some_iff.1 hi).1 segTable_nodup).1 (hi.trans hj.symm)

/-- The blank stands at code 10 and nowhere else (R51). -/
theorem segRead_blank_iff {i : Nat} {b : Byte} (h : segRead i = some b) : b = 0xFF#8 ↔ i = 10 := by
  constructor
  · rintro rfl
    exact segRead_injective h rfl
  · rintro rfl
    exact (Option.some.inj h).symm

theorem segRead_of_code_zero {i : Nat} {b : Byte} (h : segRead i = some b) (hi : i = 0) : b = 0xC0#8 := by
  subst hi
  exact (Option.some.inj h).symm

/-! ### The digit codes: when a position is suppressed, and which digit it stands for -/

theorem codeThousands_eq_blank_iff {n : Nat} (h : n ≤ 9999) : codeThousands n = 10 ↔ n < 1000 := by
  unfold codeThousands; split <;> omega

theorem codeHundreds_eq_blank_iff (n : Nat) : codeHundreds n = 10 ↔ n < 100 := by
  unfold codeHundreds; split <;> omega

theorem codeTens_eq_blank_iff (n : Nat) : codeTens n = 10 ↔ n < 10 := by
  unfold codeTens; split <;> omega

theorem codeUnits_ne_blank (n : Nat) : codeUnits n ≠ 10 := by
  unfold codeUnits; omega

theorem codeHundreds_of_le {n : Nat} (h : 100 ≤ n) : codeHundreds n = n / 100 % 10 := if_pos h

theorem codeTens_of_le {n : Nat} (h : 10 ≤ n) : codeTens n = n / 10 % 10 := if_pos h

theorem codeThousands_mod_ten {n : Nat} (h : n ≤ 9999) : codeThousands n % 10 = n / 1000 := by
  unfold codeThousands; split <;> omega

theorem codeHundreds_mod_ten (n : Nat) : codeHundreds n % 10 = n / 100 % 10 := by
  unfold codeHundreds; split <;> omega

theorem codeTens_mod_ten (n : Nat) : codeTens n % 10 = n / 10 % 10 := by
  unfold codeTens; split <;> omega

/-- The codes tell the number: the blank's code 10 counts as a zero modulo 10. -/
theorem number_of_codes {n : Nat} (h : n ≤ 9999) :
    1000 * (codeThousands n % 10) + 100 * (codeHundreds n % 10) + 10 * (codeTens n % 10) + codeUnits n = n := by
  rw [codeThousands_mod_ten h, codeHundreds_mod_ten, codeTens_mod_ten, codeUnits]
  omega

/-! ### What `ENCODE` answers -/

/-- Which of the four bytes are blank (R111). -/
theorem encodeValue_blank_iff {n : Word16} {d : Digits} (h : encodeValue n = some d) :
    (d.d0 = 0xFF#8 ↔ n.toNat < 1000) ∧ (d.d1 = 0xFF#8 ↔ n.toNat < 100) ∧ (d.d2 = 0xFF#8 ↔ n.toNat < 10) ∧
      d.d3 ≠ 0xFF#8 := by
  obtain ⟨hn, h0, h1, h2, h3⟩ := (encodeValue_eq_some_iff n d).1 h
  exact ⟨(segRead_blank_iff h0).trans (codeThousands_eq_blank_iff hn),
    (segRead_blank_iff h1).trans (codeHundreds_eq_blank_iff _), (segRead_blank_iff h2).trans (codeTens_eq_blank_iff _),
    mt (segRead_blank_iff h3).1 (codeUnits_ne_blank _)⟩

theorem encodeValue_injective {n m : Word16} {d : Digits} (hn : encodeValue n = some d) (hm : encodeValue m = some d) :
    n = m := by
  obtain ⟨hnle, hn0, hn1, hn2, hn3⟩ := (encodeValue_eq_some_iff n d).1 hn
  obtain ⟨hmle, hm0, hm1, hm2, hm3⟩ := (encodeValue_eq_some_iff m d).1 hm
  apply BitVec.eq_of_toNat_eq
  rw [← number_of_codes hnle, segRead_injective hn0 hm0, segRead_injective hn1 hm1, segRead_injective hn2 hm2,
    segRead_injective hn3 hm3, number_of_codes hmle]

/-- The number of blanks by range (R116). -/
theorem encodeValue_count_blank {n : Word16} {d : Digits} (h : encodeValue n = some d) :
    [d.d0, d.d1, d.d2, d.d3].count 0xFF#8 =
      if n.toNat ≤ 9 then 3 else if n.toNat ≤ 99 then 2 else if n.toNat ≤ 999 then 1 else 0 := by
  obtain ⟨h0, h1, h2, h3⟩ := encodeValue_blank_iff h
  simp only [List.count_cons, List.count_nil, beq_iff_eq, h0, h1, h2, h3, if_false]
  split_ifs <;> omega

/-- Settles O9: the codes are in the table's range, so `ENCODE` answers, and its bytes are the entries of the codes. -/
theorem encodeDigitsByPosition : Obligations.EncodeDigitsByPosition := by
  intro n s hn
  obtain ⟨d, hd⟩ := encodeValue_of_le hn
  have hexec : exec (.encodeDigits n) s = .next { s with returns := s.returns ++ [.digits d] } := by
    rw [exec_encodeDigits, hd]
    rfl
  obtain ⟨-, hbytes⟩ := (encodeValue_eq_some_iff n d).1 hd
  exact ⟨d, hexec, hbytes⟩

/-- Settles O10: a byte is blank exactly when its code is 10, and a code 0 reads the byte `0xC0`. -/
theorem leadingZerosBlank : Obligations.LeadingZerosBlank := by
  intro n d h
  obtain ⟨b0, b1, b2, b3⟩ := encodeValue_blank_iff h
  obtain ⟨-, -, h1, h2, h3⟩ := (encodeValue_eq_some_iff n d).1 h
  exact ⟨b0, b1, b2, b3, fun hle hzero => segRead_of_code_zero h1 ((codeHundreds_of_le hle).trans hzero),
    fun hle hzero => segRead_of_code_zero h2 ((codeTens_of_le hle).trans hzero), segRead_of_code_zero h3⟩

/-- Settles O11: `ENCODE` answers on its domain with entries of `SEG`, and bit 7 is set in all eleven. -/
theorem encodeTotalFromSeg : Obligations.EncodeTotalFromSeg := by
  intro n hn
  obtain ⟨d, hd⟩ := encodeValue_of_le hn
  exact ⟨d, hd, fun p => ⟨encodeValue_get_mem hd p, segTable_bit7 (encodeValue_get_mem hd p)⟩⟩

/-- Settles O12: equal bytes have equal codes, which tell the number; a number below a power of ten is below the greater ones, so
the blanks are leftmost. -/
theorem encodeInjective : Obligations.EncodeInjective := by
  refine ⟨fun n m d => encodeValue_injective, fun n d h => ?_⟩
  obtain ⟨h0, h1, h2, h3⟩ := encodeValue_blank_iff h
  refine ⟨encodeValue_count_blank h, fun hb => h0.2 ?_, fun hb => h1.2 ?_, h3⟩
  · exact (h1.1 hb).trans (by decide)
  · exact (h2.1 hb).trans (by decide)

end Sys2Proof.Machine
end

section
/-! Outside the domain of `ENCODE` (spec/40_digit_encoder.md R113, log 11): the transitions that would need it have no next
state, and `exec` refuses them by name. -/

namespace Sys2Proof.Machine

theorem State.doSetValue_of_gt (s : State) {n : Word16} (h : 9999 < n.toNat) : s.doSetValue n = none := if_pos h

theorem State.doEnable_of_gt {s : State} (he : s.enabled = false) (hv : s.valueValid = true) (h : 9999 < s.value.toNat) :
    s.doEnable = none := by
  simp [State.doEnable, he, hv, encodeValue_of_gt h]

/-- Settles O13: each of the four operations stands on a transition without a next state, which is answered by the refusal. -/
theorem encodeDomainStops : Obligations.EncodeDomainStops := by
  refine ⟨fun n s h => ⟨?_, ?_⟩, fun a s he hv h => ⟨?_, ?_⟩⟩
  · rw [exec_encodeDigits, encodeValue_of_gt h, Option.map_none, encodedOrRefused]
  · rw [exec_doSetValue, s.doSetValue_of_gt h, encodedOrRefused]
  · rw [exec_doEnable, State.doEnable_of_gt he hv h, encodedOrRefused]
  · rw [exec_enable, State.doEnable_of_gt he hv h, Option.map_none, encodedOrRefused]

end Sys2Proof.Machine
end

section
/-! The pin operations of bytes and frames as lists (spec/41_shift_register_output.md R131, R132, R135 to R139): a frame is
`L0`, the sixteen bits of its word from bit 15 down, `L1`, so what it does follows from what a sequence of bits does. -/

namespace Sys2Proof.Machine

/-! ### The load's registers bit by bit -/

/-- The shift of R141 written with a slice and a bit. -/
theorem shiftIn_eq_append (sr : Word16) (b : Bool) : shiftIn sr b = sr.extractLsb' 0 15 ++ BitVec.ofBool b := by
  apply BitVec.eq_of_getLsbD_eq
  intro i hi
  have happend : (sr.extractLsb' 0 15 ++ BitVec.ofBool b).getLsbD i =
      if i < 1 then (BitVec.ofBool b).getLsbD i else (sr.extractLsb' 0 15).getLsbD (i - 1) := BitVec.getLsbD_append
  rw [shiftIn_getLsbD, happend, BitVec.getLsbD_extractLsb', Nat.zero_add]
  rcases i with _ | i
  · simp
  · simp [hi, show i < 15 by omega]

/-- After a frame entered with CLOCK high one bit of the old shift register is left on top (R142). -/
theorem loadAfterFrame_true (sr : Word16) (seg sel : Byte) :
    loadAfterFrame true sr seg sel = BitVec.ofBool (sr.getLsbD 0) ++ (seg.extractLsb' 0 7 ++ sel) := by
  have htop : sr.extractLsb' 0 1 = BitVec.ofBool (sr.getLsbD 0) :=
    BitVec.eq_of_getLsbD_eq fun i hi => by simp [Nat.lt_one_iff.1 hi]
  rw [← htop]
  rfl

/-! ### The bits of a frame -/

/-- The bits of a frame word in the order they leave the block, `F[15]` first (R135). -/
def frameBits (f : Word16) : List Bool := (List.range 16).map fun j => f.getLsbD (15 - j)

@[simp] theorem frameBits_length (f : Word16) : (frameBits f).length = 16 := by simp [frameBits]

theorem byteBits_append_byteBits (seg sel : Byte) : byteBits seg ++ byteBits sel = frameBits (frameWord seg sel) := by
  simp [byteBits, frameBits, List.range_succ, frameWord_getLsbD]

theorem frameWrites_eq_frameBits (seg sel : Byte) :
    frameWrites seg sel =
      ⟨.latch, false⟩ :: ((frameBits (frameWord seg sel)).flatMap bitWrites ++ [⟨.latch, true⟩]) := by
  rw [frameWrites_eq, byteBits_append_byteBits]

/-! ### Lengths and writes -/

theorem byteWrites_length (v : Byte) : (byteWrites v).length = 24 := by
  rw [byteWrites_eq, flatMap_bitWrites_length, byteBits_length]

theorem frameWrites_length (seg sel : Byte) : (frameWrites seg sel).length = 50 := by
  simp [frameWrites, byteWrites_length]

theorem scanWrites_length (d : Digits) : (scanWrites d).length = 200 := by
  simp [scanWrites, frameWrites_length]

theorem writesOf_clock_byte (l : Bool) (v : Byte) : writesOf .clock l (byteWrites v) = 8 := by
  rw [byteWrites_eq, writesOf_clock_bits, byteBits_length]

theorem writesOf_data_byte (v : Byte) :
    writesOf .data false (byteWrites v) + writesOf .data true (byteWrites v) = 8 := by
  rw [byteWrites_eq, writesOf_data_bits, byteBits_length]

/-- The writes of a frame are those of its bits, and one write of each level to LATCH (R135). -/
theorem writesOf_frame (p : Pin) (l : Bool) (seg sel : Byte) :
    writesOf p l (frameWrites seg sel) =
      writesOf p l ((frameBits (frameWord seg sel)).flatMap bitWrites) + if p = .latch then 1 else 0 := by
  rw [frameWrites_eq_frameBits, writesOf_cons, writesOf_append]
  cases p <;> cases l <;> simp [writesOf]

theorem writesOf_latch_frame (l : Bool) (seg sel : Byte) : writesOf .latch l (frameWrites seg sel) = 1 := by
  simp [writesOf_frame, writesOf_latch_bits]

theorem writesOf_clock_frame (l : Bool) (seg sel : Byte) : writesOf .clock l (frameWrites seg sel) = 16 := by
  simp [writesOf_frame, writesOf_clock_bits]

theorem writesOf_data_frame (seg sel : Byte) :
    writesOf .data false (frameWrites seg sel) + writesOf .data true (frameWrites seg sel) = 16 := by
  simp [writesOf_frame, writesOf_data_bits]

/-- Operation by operation (R135): bit `15-j` goes out at operations `1+3j`, `2+3j`, `3+3j`. -/
theorem frameWrites_getElem_bit (seg sel : Byte) {j : Nat} (hj : j < 16) :
    (frameWrites seg sel)[1 + 3 * j]? = some ⟨.data, (frameWord seg sel).getLsbD (15 - j)⟩ ∧
    (frameWrites seg sel)[2 + 3 * j]? = some ⟨.clock, true⟩ ∧
    (frameWrites seg sel)[3 + 3 * j]? = some ⟨.clock, false⟩ := by
  obtain ⟨hdata, hrise, hfall⟩ := bits_getElem (frameBits (frameWord seg sel)) [⟨.latch, true⟩] j (by simpa using hj)
  have hbit : (frameBits (frameWord seg sel))[j]'(by simpa using hj) = (frameWord seg sel).getLsbD (15 - j) := by
    simp [frameBits]
  rw [hbit] at hdata
  rw [frameWrites_eq_frameBits, show 1 + 3 * j = 3 * j + 1 by omega, show 2 + 3 * j = 3 * j + 1 + 1 by omega,
    show 3 + 3 * j = 3 * j + 2 + 1 by omega]
  exact ⟨hdata, hrise, hfall⟩

theorem frameWrites_head? (seg sel : Byte) : (frameWrites seg sel).head? = some ⟨.latch, false⟩ := rfl

theorem frameWrites_getLast? (seg sel : Byte) : (frameWrites seg sel).getLast? = some ⟨.latch, true⟩ := by
  rw [frameWrites, List.getLast?_concat]

/-! ### Edges -/

/-- When CLOCK is high before the first bit, that bit's `C1` is no edge (R139). -/
theorem risingEdges_clock_bits_high (bs : List Bool) :
    risingEdges .clock true (bs.flatMap bitWrites) = bs.length - 1 := by
  cases bs with
  | nil => rfl
  | cons b bs =>
    have hrest := risingEdges_clock_bits bs
    simpa [risingEdges, bitWrites] using hrest

theorem risingEdges_clock_byte (level : Bool) (v : Byte) :
    risingEdges .clock level (byteWrites v) = if level then 7 else 8 := by
  rw [byteWrites_eq]
  cases level
  · exact risingEdges_clock_bits _
  · exact risingEdges_clock_bits_high _

/-- The LATCH writes around the bits of a frame are no CLOCK edges. -/
theorem clock_edges_frame (level : Bool) (seg sel : Byte) :
    risingEdges .clock level (frameWrites seg sel) =
      risingEdges .clock level ((frameBits (frameWord seg sel)).flatMap bitWrites) ∧
    fallingEdges .clock level (frameWrites seg sel) =
      fallingEdges .clock level ((frameBits (frameWord seg sel)).flatMap bitWrites) := by
  simp [frameWrites_eq_frameBits, risingEdges, fallingEdges, risingEdges_append, fallingEdges_append]

theorem risingEdges_clock_frame (level : Bool) (seg sel : Byte) :
    risingEdges .clock level (frameWrites seg sel) = if level then 15 else 16 := by
  rw [(clock_edges_frame level seg sel).1]
  cases level
  · rw [risingEdges_clock_bits, frameBits_length, if_neg Bool.false_ne_true]
  · rw [risingEdges_clock_bits_high, frameBits_length, if_pos rfl]

theorem fallingEdges_clock_frame (seg sel : Byte) : fallingEdges .clock false (frameWrites seg sel) = 16 := by
  rw [(clock_edges_frame false seg sel).2, fallingEdges_clock_bits, frameBits_length]

/-- `L0` brings LATCH down and the bits leave it there, so `L1` is a rising edge from every level (R139). -/
theorem risingEdges_latch_frame (level : Bool) (seg sel : Byte) :
    risingEdges .latch level (frameWrites seg sel) = 1 := by
  simp [frameWrites_eq_frameBits, risingEdges, risingEdges_append, latch_edges_bits, levelAfter_latch_bits]

theorem fallingEdges_latch_frame (level : Bool) (seg sel : Byte) :
    fallingEdges .latch level (frameWrites seg sel) = if level then 1 else 0 := by
  simp [frameWrites_eq_frameBits, fallingEdges, fallingEdges_append, latch_edges_bits, levelAfter_latch_bits]

/-- DATA is stable at every CLOCK rising edge (R136): it is written only while CLOCK is low. -/
theorem frame_data_written_low {seg sel : Byte} {i : Nat} {b : Bool}
    (h : (frameWrites seg sel)[i]? = some ⟨.data, b⟩) :
    levelAfter .clock false ((frameWrites seg sel).take i) = false := by
  rw [frameWrites_eq_frameBits] at h ⊢
  cases i with
  | zero => rfl
  | succ i => exact data_written_low _ [⟨.latch, true⟩] (by simp) i b h

/-- Changes along a sequence, counted at each position against the one before it. -/
theorem changes_map_range (level : Bool) (f : Nat → Bool) (n : Nat) :
    changes level ((List.range n).map f) =
      (List.range n).countP fun j => (if j = 0 then level else f (j - 1)) != f j := by
  induction n generalizing level f with
  | zero => rfl
  | succ n ih =>
    have hshift := ih (f 0) (f ∘ Nat.succ)
    rw [List.range_succ_eq_map, List.map_cons, List.map_map, changes, hshift, List.countP_cons, List.countP_map,
      Nat.add_comm]
    congr 1
    refine List.countP_congr fun j _ => ?_
    cases j <;> simp

/-- The DATA edges of a frame are the changes along `DATA_on_entry, F[15], …, F[0]` (R136). -/
theorem data_edges_frame (level : Bool) (seg sel : Byte) :
    risingEdges .data level (frameWrites seg sel) + fallingEdges .data level (frameWrites seg sel) =
      (List.range 16).countP fun j =>
        (if j = 0 then level else (frameWord seg sel).getLsbD (16 - j)) != (frameWord seg sel).getLsbD (15 - j) := by
  have hbits : risingEdges .data level (frameWrites seg sel) + fallingEdges .data level (frameWrites seg sel) =
      changes level (frameBits (frameWord seg sel)) := by
    rw [frameWrites_eq_frameBits]
    exact data_edges_bits level _ [⟨.latch, true⟩] fun l => ⟨rfl, rfl⟩
  rw [hbits, frameBits, changes_map_range]
  refine List.countP_congr fun j _ => ?_
  cases j with
  | zero => rfl
  | succ j => rw [show 15 - (j + 1 - 1) = 16 - (j + 1) by omega]

/-! ### A frame as a run of its pin operations -/

theorem State.emitFrame_eq_pinOps (s : State) (seg sel : Byte) : s.emitFrame seg sel = s.pinOps (frameWrites seg sel) := rfl

theorem latch_not_mem_bits (l : Bool) (bs : List Bool) : ⟨.latch, l⟩ ∉ bs.flatMap bitWrites := by
  simp [bitWrites]

/-- `L1` is the last of the 50 operations and no other (R135). -/
theorem latch_high_not_mem_take_frame {k : Nat} (hk : k ≤ 49) (seg sel : Byte) :
    ∀ w ∈ (frameWrites seg sel).take k, w ≠ ⟨.latch, true⟩ := by
  rintro w hw rfl
  have hlength : ((⟨.latch, false⟩ : PinWrite) :: (frameBits (frameWord seg sel)).flatMap bitWrites).length = 49 := by
    rw [List.length_cons, flatMap_bitWrites_length, frameBits_length]
  rw [frameWrites_eq_frameBits, ← List.cons_append, List.take_append_of_le_length (hlength ▸ hk)] at hw
  rcases List.mem_cons.1 (List.mem_of_mem_take hw) with hlow | hbits
  · cases hlow
  · exact latch_not_mem_bits true _ hbits

end Sys2Proof.Machine
end

section
/-! The Shift-Register Output settled (spec/41_shift_register_output.md): `exec` runs the operation, whose effect the laws of
the shift operations state in full; the counts are those of the lists above. -/

namespace Sys2Proof.Machine

/-- Settles O14: per pin, the tests of the other two pins are decided. -/
theorem pinOpDrivesOnePin : Obligations.PinOpDrivesOnePin := by
  intro s l
  refine ⟨?latch, ?clock, ?data⟩
  case latch => rw [exec_pinOp]; simp [State.pinOp]
  case clock => rw [exec_pinOp, ← shiftIn_eq_append]; simp [State.pinOp]
  case data => rw [exec_pinOp]; simp [State.pinOp]

/-- Settles O15: the effect is the law of `SHIFT_BYTE`, the counts are those of eight bits. -/
theorem shiftByteClocksEightBits : Obligations.ShiftByteClocksEightBits := by
  intro s v
  have hexec := (exec_shiftByte v s).trans (congrArg _ (s.shiftByte_eq v))
  exact ⟨hexec, byteWrites_length v, (Nat.add_comm _ _).trans (writesOf_data_byte v), writesOf_clock_byte true v,
    writesOf_clock_byte false v, risingEdges_clock_byte s.clock v⟩

/-- Settles O16, by the law of `EMIT_FRAME`. -/
theorem emitFrameActs : Obligations.EmitFrameActs := by
  intro s seg sel
  rw [exec_emitFrame, State.emitFrame_eq]

/-- `EMIT_FRAME` completes from every state and appends its 50 operations. -/
theorem exec_emitFrame_pinTrace (s : State) (seg sel : Byte) :
    ∃ t, exec (.emitFrame seg sel) s = .next t ∧ t.pinTrace = s.pinTrace ++ frameWrites seg sel :=
  ⟨_, emitFrameActs s seg sel, rfl⟩

/-- Settles O17: the frame's list counted and read operation by operation; a scan is four frames. -/
theorem frameOperationsInOrder : Obligations.FrameOperationsInOrder := by
  intro s seg sel
  constructor
  · obtain ⟨t, hexec, htrace⟩ := exec_emitFrame_pinTrace s seg sel
    have hlast : (frameWrites seg sel)[49]? = some ⟨.latch, true⟩ := by
      rw [← frameWrites_getLast? seg sel, List.getLast?_eq_getElem?, frameWrites_length]
    exact ⟨t, _, hexec, htrace, frameWrites_length seg sel, writesOf_latch_frame _ _ _, writesOf_latch_frame _ _ _,
      writesOf_clock_frame _ _ _, writesOf_clock_frame _ _ _, writesOf_data_frame seg sel, rfl, hlast,
      fun _ hj => frameWrites_getElem_bit seg sel hj⟩
  · exact ⟨s.scan, _, exec_scan s, by rw [State.scan_eq], scanWrites_length s.digits⟩

/-- Settles O18: the frame's edges at the entry levels CLOCK low and LATCH high. -/
theorem frameEdges : Obligations.FrameEdges := by
  intro s seg sel hclock hlatch
  obtain ⟨t, hexec, htrace⟩ := exec_emitFrame_pinTrace s seg sel
  refine ⟨t, _, hexec, htrace, ?_⟩
  rw [hclock, hlatch]
  exact ⟨risingEdges_clock_frame false seg sel, fallingEdges_clock_frame seg sel, risingEdges_latch_frame true seg sel,
    fallingEdges_latch_frame true seg sel, frameWrites_head? seg sel, frameWrites_getLast? seg sel,
    fun _ _ h => frame_data_written_low h, data_edges_frame s.data seg sel⟩

/-- Settles O19: the frame's edges at every entry level. -/
theorem firstFrameEdges : Obligations.FirstFrameEdges := by
  intro s seg sel
  obtain ⟨t, hexec, htrace⟩ := exec_emitFrame_pinTrace s seg sel
  exact ⟨t, hexec, htrace, risingEdges_clock_frame s.clock seg sel, fallingEdges_latch_frame s.latch seg sel,
    risingEdges_latch_frame s.latch seg sel⟩

/-- Settles O20: the load after a frame in its two cases; `OUT` waits for `L1`, the frame's last operation. -/
theorem frameReachesLoad : Obligations.FrameReachesLoad := by
  intro s seg sel
  refine ⟨⟨_, emitFrameActs s seg sel, rfl, ?low, ?high⟩, ?run, ?early⟩
  case low =>
    intro hclock
    rw [hclock]
    exact loadAfterFrame_false s.sr seg sel
  case high =>
    intro hclock
    rw [hclock]
    exact loadAfterFrame_true s.sr seg sel
  case run => rw [exec_emitFrame, State.emitFrame_eq_pinOps]
  case early =>
    intro k hk
    exact State.pinOps_out s _ (latch_high_not_mem_take_frame hk seg sel)

/-- Settles O21, by the law of `SCAN`, its list written out frame by frame. -/
theorem scanEmitsFourFrames : Obligations.ScanEmitsFourFrames := by
  intro s
  rw [exec_scan, State.scan_eq]
  simp [scanWrites, frameWord]

/-- Settles O22, by the law of `BLANK_FRAME`. -/
theorem blankFrameActs : Obligations.BlankFrameActs := by
  intro s
  rw [exec_blankFrame, State.blankFrame_eq]

end Sys2Proof.Machine
end

section
/-! Disabled is silent (spec/42_display_state_machine.md R165): `ENABLE` alone leaves Disabled, and only from a command tuple
whose `cmd_num` is 1. -/

namespace Sys2Proof

theorem eq_one_of_dispatchCommand_eq_enable {k : Nat} {a b : CmdArgs} (h : dispatchCommand k a = .enable b) : k = 1 := by
  by_contra hk
  simp only [dispatchCommand, if_neg hk] at h
  split_ifs at h

/-- An agent's input that decodes to `ENABLE` is an `ENABLE` command. -/
theorem isEnable_of_decode_enable {c : Config} {inp : Input} {a : CmdArgs} (hx : inp.external = true)
    (h : decode c inp = .ok (.enable a)) : inp.isEnable = true := by
  obtain ⟨port, ws⟩ := inp
  cases port with
  | syscall driver =>
    simp only [decode] at h
    split_ifs at h
    unfold decodeCommand at h
    split at h
    · split_ifs at h
      obtain rfl := eq_one_of_dispatchCommand_eq_enable (Except.ok.inj h)
      rfl
    · cases h
  | callback => cases decodeBare_ok h
  | counter => cases decodeBare_ok h
  | frame => cases hx
  | internal op => cases hx

end Sys2Proof

namespace Sys2Proof.Machine

/-- Disabled, the alarm is off and nothing is pending (spec/10_state.md R35, R40). -/
theorem Inv.alarm_off_of_disabled {s : State} (h : Inv s) (he : s.enabled = false) : s.armed = false ∧ s.pending = false := by
  constructor
  · exact h.enabledArmed.symm.trans he
  · by_contra hp
    have he' := h.enabled_of_pending (Bool.eq_true_of_not_eq_false hp)
    simp [he] at he'

/-- A firing that is not pending has no step (R157, R163). -/
theorem exec_fired_of_not_pending {s : State} (h : s.pending = false) : exec .fired s = .fault .firedNotPending := by
  rw [exec_fired, h, if_neg Bool.false_ne_true]

/-- The pin operations of `do_disable`: one blank frame, or none (R160, R163). -/
theorem State.doDisable_pinTrace (s : State) :
    s.doDisable.pinTrace = s.pinTrace ++ if s.enabled then frameWrites 0xFF#8 0xF1#8 else [] := by
  cases he : s.enabled
  · simp [State.doDisable_of_disabled he]
  · simp [State.doDisable_of_enabled he]

/-- While Disabled no operation of the agents but `ENABLE` touches the display's state, a pin or the alarm. -/
theorem exec_silent_of_disabled {i : Instr} {s t : State} (h : Inv s) (he : s.enabled = false) (hi : i.external = true)
    (hne : ∀ a, i ≠ .enable a) (hst : exec i s = .next t) :
    t.enabled = false ∧ t.pinTrace = s.pinTrace ∧ t.alarmTrace = s.alarmTrace := by
  rcases exec_external_cases hi hst with ⟨-, rfl⟩ | ⟨-, hp, -⟩ | ⟨rc, -, -, rfl⟩ | ⟨a, hia, -⟩ | ⟨a, d, hia, -⟩ |
    ⟨a, -, he', -⟩ | ⟨a, n, -, -, -, rfl⟩ | ⟨a, n, d, -, -, he', -⟩
  · exact ⟨he, rfl, rfl⟩
  · simp [h.enabled_of_pending hp] at he
  · exact ⟨he, rfl, rfl⟩
  · exact absurd hia (hne a)
  · exact absurd hia (hne a)
  · simp [he'] at he
  · exact ⟨he, rfl, rfl⟩
  · simp [he'] at he

/-- The same of a step whose schedule holds no `ENABLE`; none joins the schedule. -/
theorem step_silent_of_disabled {s t : State} (h : Inv s) (he : s.enabled = false)
    (hq : ∀ inp ∈ s.queue, inp.isEnable = false) (hst : step s = .next t) :
    (t.enabled = false ∧ t.pinTrace = s.pinTrace ∧ t.alarmTrace = s.alarmTrace) ∧
    ∀ inp ∈ t.queue, inp.isEnable = false := by
  rcases step_cases hst with ⟨-, rfl⟩ | ⟨inp, rest, i, hcons, hd, hexec⟩
  · exact ⟨⟨he, rfl, rfl⟩, hq⟩
  · rw [hcons, List.forall_mem_cons] at hq
    have hx : inp.external = true := h.external inp (by simp [hcons])
    have hne (a : CmdArgs) : i ≠ .enable a := by
      rintro rfl
      simp [isEnable_of_decode_enable hx hd] at hq
    have hqueue : t.queue = rest := (exec_cfg_queue hexec).2
    rw [hqueue]
    exact ⟨exec_silent_of_disabled (s := { s with queue := rest }) (h.dropInput hcons) he (decode_external hd hx) hne hexec,
      hq.2⟩

/-- A run without an `ENABLE` from a Disabled state stays Disabled and silent, by induction on its length. -/
theorem run_silent_of_disabled {k : Nat} {s t : State} (h : Inv s) (he : s.enabled = false)
    (hq : ∀ inp ∈ s.queue, inp.isEnable = false) (hrun : Sys2Proof.core.run k s = .next t) :
    Inv t ∧ t.enabled = false ∧ t.pinTrace = s.pinTrace ∧ t.alarmTrace = s.alarmTrace := by
  induction k generalizing s with
  | zero =>
    obtain rfl := next_inj hrun
    exact ⟨h, he, rfl, rfl⟩
  | succ k ih =>
    obtain ⟨u, hstep, hrest⟩ := run_succ_next hrun
    obtain ⟨⟨heu, hpins, halarm⟩, hqu⟩ := step_silent_of_disabled h he hq hstep
    obtain ⟨ht, het, hpins', halarm'⟩ := ih (invariantKept s u h hstep) heu hqu hrest
    exact ⟨ht, het, hpins'.trans hpins, halarm'.trans halarm⟩

/-- Settles O47: the state after `DISABLE` is Disabled and of the invariant, so the alarm is off; the silence of runs is the
induction above. -/
theorem disabledIsSilent : Obligations.DisabledIsSilent := by
  constructor
  · intro s a h
    have ht : Inv (s.doDisable.returnCode .success) := h.kept_by_exec (i := .disable a) rfl (exec_disable a s)
    have he : (s.doDisable.returnCode .success).enabled = false := s.doDisable_enabled
    obtain ⟨harmed, hpending⟩ := ht.alarm_off_of_disabled he
    exact ⟨_, exec_disable a s, he, harmed, hpending, exec_fired_of_not_pending hpending, s.doDisable_pinTrace⟩
  · intro k s t h he hq hrun
    obtain ⟨ht, het, hpins, halarm⟩ := run_silent_of_disabled h he hq hrun
    obtain ⟨harmed, hpending⟩ := ht.alarm_off_of_disabled het
    exact ⟨het, harmed, hpending, hpins, halarm⟩

end Sys2Proof.Machine
end

section
/-! The parameters (spec/42_display_state_machine.md R155, spec/70_reset_and_hazards.md R248). -/

namespace Sys2Proof

/-- The limits on the period are limits on the frequency. -/
theorem Config.admissible_iff {wTick wWord freq : Nat} :
    Config.Admissible wTick wWord freq ↔ 32 ≤ wWord ∧ 8000 ≤ freq ∧ freq < 8000 * 2 ^ wTick := by
  have hlow : 1 ≤ freq / 8000 ↔ 8000 ≤ freq := by omega
  have hhigh : freq / 8000 < 2 ^ wTick ↔ freq < 8000 * 2 ^ wTick := by
    rw [Nat.div_lt_iff_lt_mul (by decide), Nat.mul_comm]
  exact and_congr_right' (and_congr hlow hhigh)

theorem Config.mk?_eq_some_iff {wTick wWord freq : Nat} {c : Config} :
    Config.mk? wTick wWord freq = some c ↔ c.wTick = wTick ∧ c.wWord = wWord ∧ c.freq = freq := by
  unfold Config.mk?
  constructor
  · intro h
    split_ifs at h
    obtain rfl := Option.some.inj h
    exact ⟨rfl, rfl, rfl⟩
  · rintro ⟨rfl, rfl, rfl⟩
    exact dif_pos c.admissible

end Sys2Proof

namespace Sys2Proof.Machine

/-- Settles O7: a configuration carries the proof that its parameters are admissible, and any that are make one. -/
theorem admissiblePeriods : Obligations.AdmissiblePeriods := by
  constructor
  · intro wTick wWord freq
    rw [← Config.admissible_iff]
    constructor
    · rintro ⟨c, -, rfl, rfl, rfl⟩
      exact c.admissible
    · intro h
      exact ⟨⟨wTick, wWord, freq, h⟩, Config.mk?_eq_some_iff.2 ⟨rfl, rfl, rfl⟩, rfl, rfl, rfl⟩
  · intro c
    exact ⟨one_le_period c, period_lt c, Nat.mul_div_le c.freq 8000, Nat.lt_mul_div_succ c.freq (by decide)⟩

end Sys2Proof.Machine
end

section
/-! The alarm calls and the counter (spec/42_display_state_machine.md R151 to R156). -/

namespace Sys2Proof.Machine

/-- Settles O23: each call is its operation's equation, its fields written out. -/
theorem alarmCallsAct : Obligations.AlarmCallsAct := by
  intro s u
  exact ⟨exec_alarmNow s, exec_setAlarm u s, exec_alarmEnable s, exec_alarmDisable s⟩

theorem pendingAfterTick_eq (s : State) (n : Nat) : pendingAfterTick s n = (s.pending || (s.armed && decide (n = s.cmp))) :=
  Bool.or_comm _ _

/-- Settles O24: the counter and `pending` are the two fields of `TICK`. -/
theorem tickAdvances : Obligations.TickAdvances := by
  intro s
  rw [exec_tick, State.tick, pendingAfterTick_eq]
  rfl

/-- A scheduled `TICK` is a `TICK` in the state without it. -/
theorem step_of_counter {s : State} {rest : List Input} (hq : s.queue = ⟨.counter, []⟩ :: rest) :
    step s = .next { s with queue := rest }.tick :=
  step_of_ok hq rfl

/-- `k` scheduled ticks: the counter is `k` further, and `pending` is set when the armed alarm was met on the way (R156). -/
theorem run_ticks {k : Nat} {s : State} {q : List Input} (hnow : s.now < 2 ^ s.cfg.wTick)
    (hq : s.queue = List.replicate k ⟨.counter, []⟩ ++ q) :
    Sys2Proof.core.run k s = .next { s with
      now := (s.now + k) % 2 ^ s.cfg.wTick
      pending := s.pending || (s.armed && decide (∃ j < k, (s.now + (j + 1)) % 2 ^ s.cfg.wTick = s.cmp))
      queue := q } := by
  induction k generalizing s with
  | zero =>
    have hq : s.queue = q := hq
    simp [Host.Core.run, Nat.mod_eq_of_lt hnow, ← hq]
  | succ k ih =>
    have hstep := step_of_counter hq
    rw [run_succ_of_step hstep, ih (tickAdd_lt _ _ _) rfl]
    simp only [State.tick, pendingAfterTick_eq, tickAdd, Nat.mod_add_mod, Nat.exists_lt_succ_left, Bool.decide_or,
      Nat.add_assoc, Nat.add_comm 1, Nat.zero_add, Bool.and_or_distrib_left, Bool.or_assoc]

/-- Counting up modulo `m` from `n`, the value `n + p` is met within `k` counts exactly when `p ≤ k`. -/
theorem exists_count_eq_iff {m n p k : Nat} (hp : 1 ≤ p) (hpm : p < m) :
    (∃ j < k, (n + (j + 1)) % m = (n + p) % m) ↔ p ≤ k := by
  constructor
  · rintro ⟨j, hj, hmeet⟩
    by_contra hlt
    have hcancel : j + 1 ≡ p [MOD m] := Nat.ModEq.add_left_cancel' n hmeet
    have heq : j + 1 = p := hcancel.eq_of_lt_of_lt (by omega) hpm
    omega
  · intro hle
    exact ⟨p - 1, by omega, by rw [Nat.sub_add_cancel hp]⟩

/-- Settles O28: `PERIOD` is at least 1 and below `2^W_TICK`, so the ticks meet the compare value first at the `PERIOD`th. -/
theorem alarmReachedAfterPeriod : Obligations.AlarmReachedAfterPeriod := by
  intro s k q harmed hpending hnow hcmp hq
  have hmeet : (∃ j < k, (s.now + (j + 1)) % 2 ^ s.cfg.wTick = s.cmp) ↔ s.cfg.freq / 8000 ≤ k := by
    rw [hcmp]
    exact exists_count_eq_iff (one_le_period s.cfg) (period_lt s.cfg)
  rw [run_ticks hnow hq]
  simp [harmed, hpending, hmeet]

end Sys2Proof.Machine
end

section
/-! The firing (spec/42_display_state_machine.md R157, R162, R169). -/

namespace Sys2Proof.Machine

/-- Settles O25: a pending firing runs the body of the callback, whose law states every field. -/
theorem firedScansAndReschedules : Obligations.FiredScansAndReschedules := by
  intro s hp
  exact (exec_fired_of_pending hp).trans (congrArg _ s.fire_eq)

/-- A `DISABLE` taken while Enabled leaves nothing pending (R160, D8). -/
theorem State.doDisable_pending {s : State} (he : s.enabled = true) : s.doDisable.pending = false := by
  rw [State.doDisable_of_enabled he]

/-- A `TICK` never clears `pending` (R156). -/
theorem State.tick_pending_of_pending {s : State} (hp : s.pending = true) : s.tick.pending = true :=
  pendingAfterTick_eq_true.2 (.inr hp)

/-- Settles O26: `FIRED` tests `pending`, which a `TICK` keeps and a `DISABLE` clears. -/
theorem firedExactlyWhenPending : Obligations.FiredExactlyWhenPending := by
  intro s
  refine ⟨⟨?completes, ?pending⟩, exec_fired_of_not_pending, ?tick, ?disable⟩
  case completes =>
    rintro ⟨t, ht⟩
    by_contra hp
    rw [exec_fired_of_not_pending (Bool.eq_false_of_not_eq_true hp)] at ht
    cases ht
  case pending =>
    intro hp
    exact ⟨s.fire, exec_fired_of_pending hp⟩
  case tick =>
    intro hp
    exact ⟨s.tick, exec_tick s, State.tick_pending_of_pending hp⟩
  case disable =>
    intro a he
    exact ⟨_, exec_disable a s, exec_fired_of_not_pending (State.doDisable_pending he)⟩

/-- A scan's writes to a pin are those of its four frames. -/
theorem writesOf_scan (p : Pin) (l : Bool) (d : Digits) :
    writesOf p l (scanWrites d) = writesOf p l (frameWrites d.d0 0xF1#8) + writesOf p l (frameWrites d.d1 0xF2#8) +
      writesOf p l (frameWrites d.d2 0xF4#8) + writesOf p l (frameWrites d.d3 0xF8#8) := by
  simp only [scanWrites, writesOf_append]

theorem writesOf_latch_scan (l : Bool) (d : Digits) : writesOf .latch l (scanWrites d) = 4 := by
  simp only [writesOf_scan, writesOf_latch_frame]

theorem writesOf_clock_scan (l : Bool) (d : Digits) : writesOf .clock l (scanWrites d) = 64 := by
  simp only [writesOf_scan, writesOf_clock_frame]

/-- Settles O27: a firing appends one scan, whose length and writes are those of four frames. -/
theorem oneScanPerFire : Obligations.OneScanPerFire := by
  intro s hp
  obtain ⟨t, hexec, htrace⟩ := exec_fired_pinTrace hp
  exact ⟨t, scanWrites s.digits, hexec, htrace, rfl, scanWrites_length _, writesOf_latch_scan _ _, writesOf_latch_scan _ _,
    writesOf_clock_scan _ _, writesOf_clock_scan _ _⟩

end Sys2Proof.Machine
end

section
/-! The three transitions (spec/42_display_state_machine.md R159 to R161, R163, R164) and `SETVALUE` before `ENABLE` (R167). -/

namespace Sys2Proof.Machine

/-- Settles O29, by the laws of `do_enable`, one for each of its cases. -/
theorem doEnableActs : Obligations.DoEnableActs := by
  intro s
  refine ⟨?value, ?absent, ?enabled⟩
  case value =>
    intro he hv hn
    obtain ⟨d, hd⟩ := encodeValue_of_le hn
    refine ⟨d, hd, ?_⟩
    rw [exec_doEnable, State.doEnable_of_value he hv hd, State.startRefresh_eq]
    rfl
  case absent =>
    intro he hv
    rw [exec_doEnable, State.doEnable_of_absent he hv, State.startRefresh_eq]
    rfl
  case enabled =>
    intro he
    rw [exec_doEnable, State.doEnable_of_enabled he]
    rfl

/-- Settles O30, by the laws of `do_disable`. -/
theorem doDisableActs : Obligations.DoDisableActs := by
  intro s
  rw [exec_doDisable]
  constructor
  · intro he
    rw [State.doDisable_of_enabled he]
  · intro he
    rw [State.doDisable_of_disabled he]

/-- Settles O31, by the laws of `do_set_value`; in the domain `ENCODE` answers. -/
theorem doSetValueActs : Obligations.DoSetValueActs := by
  intro s n hn
  rw [exec_doSetValue]
  constructor
  · intro he
    rw [State.doSetValue_of_disabled he hn]
    rfl
  · intro he
    obtain ⟨d, hd⟩ := encodeValue_of_le hn
    refine ⟨d, hd, ?_⟩
    rw [State.doSetValue_of_enabled he hd]
    rfl

theorem setValueOperand_eq (data1 : Nat) : setValueOperand data1 = BitVec.ofNat 16 (data1 % 2 ^ 16) :=
  BitVec.eq_of_toNat_eq (by simp [setValueOperand])

theorem setValueOperand_toNat (data1 : Nat) : (setValueOperand data1).toNat = data1 % 2 ^ 16 :=
  BitVec.toNat_ofNat data1 16

/-- An accepted `SETVALUE` is `do_set_value` and returns `Success` (R195). -/
theorem exec_setValue_of_le {a : CmdArgs} {s t : State} (hn : a.data1 % 2 ^ 16 ≤ 9999)
    (ht : s.doSetValue (setValueOperand a.data1) = some t) : exec (.setValue a) s = .next (t.returnCode .success) := by
  rw [exec_setValue, if_neg (by rw [setValueOperand_toNat]; omega), ht]
  rfl

/-- `ENABLE` is `do_enable` and returns `Success` (R193). -/
theorem exec_enable_of_some {a : CmdArgs} {s t : State} (ht : s.doEnable = some t) :
    exec (.enable a) s = .next (t.returnCode .success) := by
  rw [exec_enable, ht]
  rfl

/-- An `ENABLE` from a state whose stored value encodes to `d`, and whose digits are `d` already when Enabled, shows `d`. -/
theorem State.doEnable_shows {s : State} {d : Digits} (hv : s.valueValid = true) (hd : encodeValue s.value = some d)
    (hfresh : s.enabled = true → s.digits = d) : ∃ t, s.doEnable = some t ∧ t.digits = d := by
  cases he : s.enabled
  case false => exact ⟨_, State.doEnable_of_value he hv hd, rfl⟩
  case true => exact ⟨s, State.doEnable_of_enabled he, hfresh he⟩

/-- Settles O38: while Enabled `SETVALUE` computes the digits, while Disabled the `ENABLE` does. -/
theorem setValueThenEnableShowsValue : Obligations.SetValueThenEnableShowsValue := by
  intro s a b hn
  obtain ⟨t, ht⟩ := s.doSetValue_of_le (n := setValueOperand a.data1) (by rwa [setValueOperand_toNat])
  obtain ⟨d, hd⟩ : ∃ d, encodeValue (setValueOperand a.data1) = some d :=
    encodeValue_of_le (by rwa [setValueOperand_toNat])
  obtain ⟨u, hu, hdigits⟩ : ∃ u, (t.returnCode .success).doEnable = some u ∧ u.digits = d := by
    obtain ⟨-, ⟨he, rfl⟩ | ⟨-, d', hd', rfl⟩⟩ := State.doSetValue_cases ht
    · exact State.doEnable_shows rfl hd (by simp [he])
    · exact State.doEnable_shows rfl hd fun _ => Option.some.inj (hd'.symm.trans hd)
  refine ⟨_, _, exec_setValue_of_le hn ht, exec_enable_of_some hu, ?_⟩
  rw [← setValueOperand_eq, hd, ← hdigits]
  rfl

end Sys2Proof.Machine
end

section
/-! The shape of the alarm trace (spec/42_display_state_machine.md R166), read off `alarmBlocks`, and the block a step appends. -/

namespace Sys2Proof.Machine

/-- A block of the alarm trace: that of an `ENABLE`, of a `FIRED` or of a `DISABLE` (R159, R162, R160). -/
def AlarmBlock (c : Config) (b : List AlarmCall) : Prop :=
  (∃ v, b = [.now v, .setAlarm (tickAdd c v (period c)), .enable]) ∨
  (∃ v, b = [.now v, .setAlarm (tickAdd c v (period c))]) ∨ b = [.disable]

/-- What `alarmBlocks` reads is a concatenation of blocks. -/
theorem exists_blocks_of_alarmBlocks {c : Config} {e e' : Bool} {l : List AlarmCall} (h : alarmBlocks c e l = some e') :
    ∃ blocks : List (List AlarmCall), l = blocks.flatten ∧ ∀ b ∈ blocks, AlarmBlock c b := by
  induction e, l using alarmBlocks.induct c with
  | case1 e => exact ⟨[], rfl, by simp⟩
  | case2 t rest ih =>
    obtain ⟨blocks, rfl, hblocks⟩ := ih (by simpa [alarmBlocks] using h)
    exact ⟨_ :: blocks, rfl, List.forall_mem_cons.2 ⟨.inl ⟨t, rfl⟩, hblocks⟩⟩
  | case4 t rest ih =>
    obtain ⟨blocks, rfl, hblocks⟩ := ih (by simpa [alarmBlocks] using h)
    exact ⟨_ :: blocks, rfl, List.forall_mem_cons.2 ⟨.inr (.inl ⟨t, rfl⟩), hblocks⟩⟩
  | case6 rest ih =>
    obtain ⟨blocks, rfl, hblocks⟩ := ih (by simpa [alarmBlocks] using h)
    exact ⟨[.disable] :: blocks, rfl, List.forall_mem_cons.2 ⟨.inr (.inr rfl), hblocks⟩⟩
  | case3 t u rest hu | case5 t u rest hu | case7 e l => simp_all [alarmBlocks]

/-- Every `set_alarm(u)` of the list comes right after a `now()=v` of the list with `u = v +w PERIOD`. -/
def AlarmsFollowNow (c : Config) (l : List AlarmCall) : Prop :=
  ∀ before u after, l = before ++ .setAlarm u :: after →
    ∃ before' v, before = before' ++ [.now v] ∧ u = tickAdd c v (period c)

theorem AlarmsFollowNow.append {c : Config} {l₁ l₂ : List AlarmCall} (h₁ : AlarmsFollowNow c l₁)
    (h₂ : AlarmsFollowNow c l₂) : AlarmsFollowNow c (l₁ ++ l₂) := by
  intro before u after h
  rcases List.append_eq_append_iff.1 h with ⟨mid, rfl, hl₂⟩ | ⟨mid, rfl, hmid⟩
  · -- the call stands in the second list
    obtain ⟨before', v, rfl, hu⟩ := h₂ mid u after hl₂
    exact ⟨l₁ ++ before', v, (List.append_assoc ..).symm, hu⟩
  · cases mid with
    | nil =>
      -- it would be the second list's first call, with no `now()` before it there
      obtain ⟨before', v, hnil, -⟩ := h₂ [] u after hmid.symm
      simp at hnil
    | cons x mid =>
      obtain ⟨rfl, -⟩ := List.cons.inj hmid
      exact h₁ before u mid rfl

theorem AlarmsFollowNow.of_no_setAlarm {c : Config} {l : List AlarmCall} (h : ∀ u, .setAlarm u ∉ l) :
    AlarmsFollowNow c l := by
  rintro before u after rfl
  exact absurd (by simp) (h u)

theorem AlarmsFollowNow.schedule (c : Config) (v : Nat) :
    AlarmsFollowNow c [.now v, .setAlarm (tickAdd c v (period c))] := by
  intro before u after h
  rcases before with _ | ⟨x, _ | ⟨y, before⟩⟩
  · simp at h
  · simp only [List.cons_append, List.nil_append, List.cons.injEq, AlarmCall.setAlarm.injEq] at h
    obtain ⟨rfl, rfl, -⟩ := h
    exact ⟨[], v, rfl, rfl⟩
  · simp at h

/-- The block of an `ENABLE` is that of a `FIRED` with `enable()` after it. -/
theorem AlarmBlock.alarmsFollowNow {c : Config} {b : List AlarmCall} (h : AlarmBlock c b) : AlarmsFollowNow c b := by
  rcases h with ⟨v, rfl⟩ | ⟨v, rfl⟩ | rfl
  · exact (AlarmsFollowNow.schedule c v).append (l₂ := [.enable]) (.of_no_setAlarm (by simp))
  · exact .schedule c v
  · exact .of_no_setAlarm (by simp)

theorem alarmsFollowNow_flatten {c : Config} {blocks : List (List AlarmCall)} (h : ∀ b ∈ blocks, AlarmBlock c b) :
    AlarmsFollowNow c blocks.flatten := by
  induction blocks with
  | nil => intro before u after hnil; simp at hnil
  | cons b blocks ih =>
    obtain ⟨hb, hblocks⟩ := List.forall_mem_cons.1 h
    exact hb.alarmsFollowNow.append (ih hblocks)

/-- The `i`-th call of the alternation of `enable()` and `disable()` from Disabled (`e = false`) or Enabled. -/
def alternatingCall (e : Bool) (i : Nat) : AlarmCall := if i % 2 = e.toNat then .enable else .disable

theorem alternatingCall_zero (e : Bool) : alternatingCall e 0 = if e then .disable else .enable := by
  cases e <;> rfl

theorem alternatingCall_succ (e : Bool) (i : Nat) : alternatingCall e (i + 1) = alternatingCall (!e) i := by
  have hparity : (i + 1) % 2 = e.toNat ↔ i % 2 = (!e).toNat := by
    cases e <;> simp only [Bool.toNat_false, Bool.toNat_true, Bool.not_false, Bool.not_true] <;> omega
  simp only [alternatingCall, hparity]

/-- In what `alarmBlocks` reads, `enable()` and `disable()` alternate. -/
theorem enables_alternate_of_alarmBlocks {c : Config} {e e' : Bool} {l : List AlarmCall} (h : alarmBlocks c e l = some e')
    {i : Nat} {x : AlarmCall} (hx : (l.filter fun y => y = .enable ∨ y = .disable)[i]? = some x) :
    x = alternatingCall e i := by
  induction e, l using alarmBlocks.induct c generalizing i with
  | case1 e => simp at hx
  | case2 t rest ih =>
    cases i with
    | zero => simpa [alternatingCall_zero] using hx.symm
    | succ i =>
      rw [alternatingCall_succ]
      exact ih (by simpa [alarmBlocks] using h) (by simpa using hx)
  | case4 t rest ih => exact ih (by simpa [alarmBlocks] using h) (by simpa using hx)
  | case6 rest ih =>
    cases i with
    | zero => simpa [alternatingCall_zero] using hx.symm
    | succ i =>
      rw [alternatingCall_succ]
      exact ih (by simpa [alarmBlocks] using h) (by simpa using hx)
  | case3 t u rest hu | case5 t u rest hu | case7 e l => simp_all [alarmBlocks]

/-- The step from `s` to `t` appends nothing to the alarm trace, or the block of its change of the display's state. -/
def AppendsBlock (s t : State) : Prop :=
  (t.alarmTrace = s.alarmTrace ∧ t.enabled = s.enabled) ∨
  (t.alarmTrace = s.alarmTrace ++ [.now s.now, .setAlarm (tickAdd s.cfg s.now (period s.cfg)), .enable] ∧
    s.enabled = false ∧ t.enabled = true) ∨
  (t.alarmTrace = s.alarmTrace ++ [.now s.now, .setAlarm (tickAdd s.cfg s.now (period s.cfg))] ∧
    s.enabled = true ∧ t.enabled = true) ∨
  (t.alarmTrace = s.alarmTrace ++ [.disable] ∧ s.enabled = true ∧ t.enabled = false)

theorem exec_appendsBlock {i : Instr} {s t : State} (h : Inv s) (hi : i.external = true) (hst : exec i s = .next t) :
    AppendsBlock s t := by
  rcases exec_external_cases hi hst with ⟨-, rfl⟩ | ⟨-, hp, rfl⟩ | ⟨rc, -, -, rfl⟩ | ⟨a, -, he, -, rfl⟩ |
    ⟨a, d, -, he, -, -, rfl⟩ | ⟨a, -, he, rfl⟩ | ⟨a, n, -, -, -, rfl⟩ | ⟨a, n, d, -, -, -, -, rfl⟩
  · exact .inl ⟨rfl, rfl⟩
  · have he := h.enabled_of_pending hp
    rw [State.fire_eq]
    exact .inr (.inr (.inl ⟨rfl, he, he⟩))
  · exact .inl ⟨rfl, rfl⟩
  · rw [State.startRefresh_eq]
    exact .inr (.inl ⟨rfl, he, rfl⟩)
  · rw [State.startRefresh_eq]
    exact .inr (.inl ⟨rfl, he, rfl⟩)
  · rw [State.doDisable_of_enabled he]
    exact .inr (.inr (.inr ⟨rfl, he, rfl⟩))
  · exact .inl ⟨rfl, rfl⟩
  · exact .inl ⟨rfl, rfl⟩

theorem step_appendsBlock {s t : State} (h : Inv s) (hst : step s = .next t) : AppendsBlock s t := by
  rcases step_cases hst with ⟨-, rfl⟩ | ⟨inp, rest, i, hq, hd, hexec⟩
  · exact .inl ⟨rfl, rfl⟩
  · have hi : i.external = true := decode_external hd (h.external inp (by simp [hq]))
    exact exec_appendsBlock (s := { s with queue := rest }) (h.dropInput hq) hi hexec

/-- Settles O48: the invariant of the next state reads its trace as blocks, from which the shape follows. -/
theorem alarmTraceWellShaped : Obligations.AlarmTraceWellShaped := by
  intro s t h hst
  have ht : Inv t := invariantKept s t h hst
  obtain ⟨blocks, htrace, hblocks⟩ := exists_blocks_of_alarmBlocks ht.alarm
  have hfollow : AlarmsFollowNow t.cfg t.alarmTrace := htrace ▸ alarmsFollowNow_flatten hblocks
  exact ⟨hfollow, ⟨blocks, htrace, hblocks⟩, fun _ _ hx => enables_alternate_of_alarmBlocks ht.alarm hx,
    fun he => ht.enabledArmed ▸ he, step_appendsBlock h hst⟩

end Sys2Proof.Machine
end

section
/-! The five commands (spec/43_command_surface.md R192 to R196, R199, R200): a command is its transition of the display, after
which the return code goes to the caller. -/

namespace Sys2Proof.Machine

/-- Settles O32: neither command touches the state before it returns its code (R192, R196). -/
theorem probeAndUnsupportedOnlyAnswer : Obligations.ProbeAndUnsupportedOnlyAnswer := by
  intro s a k
  exact ⟨exec_probe a s, exec_unsupported k a s⟩

/-- `ENABLE` does what `do_enable` does and returns `Success` (R193). -/
theorem exec_enable_of_doEnable {s t : State} (h : exec .doEnable s = .next t) (a : CmdArgs) :
    exec (.enable a) s = .next (t.returnCode .success) :=
  exec_enable_of_some (encodedOrRefused_next h)

/-- Settles O33: each case of `do_enable`, with the return code added. -/
theorem enableCommandActs : Obligations.EnableCommandActs := by
  intro s a
  obtain ⟨hvalue, habsent, henabled⟩ := doEnableActs s
  refine ⟨?value, ?absent, ?enabled⟩
  case value =>
    intro he hv hn
    obtain ⟨d, hd, hexec⟩ := hvalue he hv hn
    exact ⟨d, hd, exec_enable_of_doEnable hexec a⟩
  case absent =>
    intro he hv
    exact exec_enable_of_doEnable (habsent he hv) a
  case enabled =>
    intro he
    exact exec_enable_of_doEnable (henabled he) a

/-- `DISABLE` does what `do_disable` does and returns `Success` (R194). -/
theorem exec_disable_of_doDisable {s t : State} (h : exec .doDisable s = .next t) (a : CmdArgs) :
    exec (.disable a) s = .next (t.returnCode .success) := by
  rw [exec_disable, next_inj h]

/-- Settles O34: both cases of `do_disable`, with the return code added. -/
theorem disableCommandActs : Obligations.DisableCommandActs := by
  intro s a
  obtain ⟨henabled, hdisabled⟩ := doDisableActs s
  constructor
  · intro he
    exact exec_disable_of_doDisable (henabled he) a
  · intro he
    exact exec_disable_of_doDisable (hdisabled he) a

/-- A `SETVALUE` above 9999 is refused (R195, D9). -/
theorem exec_setValue_of_gt {a : CmdArgs} (s : State) (hn : 9999 < a.data1 % 2 ^ 16) :
    exec (.setValue a) s = .next (s.returnCode .notSupported) := by
  rw [exec_setValue, if_pos (by rwa [setValueOperand_toNat])]

/-- An accepted `SETVALUE` does what `do_set_value` does with `data1[15:0]` and returns `Success` (R195). -/
theorem exec_setValue_of_doSetValue {a : CmdArgs} {s t : State} (hn : a.data1 % 2 ^ 16 ≤ 9999)
    (h : exec (.doSetValue (setValueOperand a.data1)) s = .next t) :
    exec (.setValue a) s = .next (t.returnCode .success) :=
  exec_setValue_of_le hn (encodedOrRefused_next h)

/-- Settles O35: above 9999 the number is refused; otherwise each case of `do_set_value`, with the return code added. -/
theorem setValueCommandActs : Obligations.SetValueCommandActs := by
  intro s a
  rw [← setValueOperand_eq]
  have hstore (hn : a.data1 % 2 ^ 16 ≤ 9999) := doSetValueActs s (setValueOperand a.data1) (by rwa [setValueOperand_toNat])
  refine ⟨exec_setValue_of_gt s, ?disabled, ?enabled⟩
  case disabled =>
    intro hn he
    obtain ⟨hdisabled, -⟩ := hstore hn
    exact exec_setValue_of_doSetValue hn (hdisabled he)
  case enabled =>
    intro hn he
    obtain ⟨-, henabled⟩ := hstore hn
    obtain ⟨d, hd, hexec⟩ := henabled he
    exact ⟨d, hd, exec_setValue_of_doSetValue hn hexec⟩

theorem State.doEnable_returns {s t : State} (h : s.doEnable = some t) : t.returns = s.returns := by
  rcases State.doEnable_cases h with ⟨-, rfl⟩ | ⟨-, -, rfl⟩ | ⟨-, -, d, -, rfl⟩ <;> rfl

theorem State.doDisable_returns (s : State) : s.doDisable.returns = s.returns := by
  cases he : s.enabled
  · rw [State.doDisable_of_disabled he]
  · rw [State.doDisable_of_enabled he]

theorem State.doSetValue_returns {s t : State} {n : Word16} (h : s.doSetValue n = some t) : t.returns = s.returns := by
  obtain ⟨-, ⟨-, rfl⟩ | ⟨-, d, -, rfl⟩⟩ := State.doSetValue_cases h <;> rfl

/-- The return code of a command, from `cmd_num` and `data1` (R200). -/
def commandCode (k data1 : Nat) : ReturnCode :=
  if k ≤ 2 ∨ (k = 3 ∧ data1 % 2 ^ 16 ≤ 9999) then .success else .notSupported

/-- Every command number completes and returns its code (R200): the three transitions return nothing of their own. -/
theorem exec_dispatchCommand_returns {s : State} (hdom : s.valueValid = true → s.value.toNat ≤ 9999) (k : Nat) (a : CmdArgs) :
    ∃ t, exec (dispatchCommand k a) s = .next t ∧ t.returns = s.returns ++ [.code (commandCode k a.data1)] := by
  match k with
  | 0 => exact ⟨_, exec_probe a s, rfl⟩
  | 1 =>
    obtain ⟨t, ht⟩ := State.doEnable_of_domain hdom
    exact ⟨_, exec_enable_of_some ht, congrArg (· ++ _) (State.doEnable_returns ht)⟩
  | 2 => exact ⟨_, exec_disable a s, congrArg (· ++ _) s.doDisable_returns⟩
  | 3 =>
    by_cases hn : a.data1 % 2 ^ 16 ≤ 9999
    case pos =>
      obtain ⟨t, ht⟩ := s.doSetValue_of_le (n := setValueOperand a.data1) (by rwa [setValueOperand_toNat])
      refine ⟨_, exec_setValue_of_le hn ht, ?_⟩
      rw [State.returnCode_returns, State.doSetValue_returns ht, commandCode, if_pos (.inr ⟨rfl, hn⟩)]
    case neg =>
      refine ⟨_, exec_setValue_of_gt s (Nat.not_le.1 hn), ?_⟩
      rw [State.returnCode_returns, commandCode, if_neg (by omega)]
  | k + 4 =>
    refine ⟨_, by rw [dispatchCommand_of_gt (by omega)]; exact exec_unsupported _ a s, ?_⟩
    rw [State.returnCode_returns, commandCode, if_neg (by omega)]

/-- Settles O36: a tuple of `W_WORD`-bit numbers is dispatched, and every command completes with its code. -/
theorem everyCommandAnswered : Obligations.EveryCommandAnswered := by
  intro s k d1 d2 app hdom hk hd1 hd2
  obtain ⟨t, hexec, hreturns⟩ := exec_dispatchCommand_returns hdom k ⟨d1, d2, app⟩
  have hdecode : decode s.cfg (commandInput k ⟨d1, d2, app⟩) = .ok (dispatchCommand k ⟨d1, d2, app⟩) :=
    decode_commandInput hk (CmdArgs.wellFormed_iff.2 ⟨hd1, hd2⟩)
  exact ⟨_, t, hdecode, hexec, hreturns⟩

end Sys2Proof.Machine
end

section
/-! The order of a command and a pending firing (spec/60_exceptions.md R217). -/

namespace Sys2Proof.Machine

/-- A firing leaves the display as it was, Enabled or Disabled (R162). -/
theorem State.fire_enabled (s : State) : s.fire.enabled = s.enabled := by
  rw [State.fire_eq]

/-- `do_disable` while Enabled appends one blank frame (R160). -/
theorem State.doDisable_pinTrace_of_enabled {s : State} (he : s.enabled = true) :
    s.doDisable.pinTrace = s.pinTrace ++ frameWrites 0xFF#8 0xF1#8 := by
  rw [State.doDisable_pinTrace, if_pos he]

/-- Settles O43: a `DISABLE` clears `pending`; a firing leaves the display Enabled, so the blank frame follows its scan; an
accepted `SETVALUE` keeps `pending` and the pin trace, so the firing after it scans the new digits. -/
theorem orderIsObservable : Obligations.OrderIsObservable := by
  intro s a he hp
  refine ⟨?disableFirst, ?firedFirst, ?setValueFirst⟩
  case disableFirst =>
    exact ⟨_, exec_disable a s, State.doDisable_pinTrace_of_enabled he,
      exec_fired_of_not_pending (State.doDisable_pending he)⟩
  case firedFirst =>
    refine ⟨s.fire, _, exec_fired_of_pending hp, exec_disable a s.fire, ?_⟩
    rw [State.returnCode_pinTrace, State.doDisable_pinTrace_of_enabled (s.fire_enabled.trans he), State.fire_eq]
  case setValueFirst =>
    intro hn
    obtain ⟨-, -, henabled⟩ := setValueCommandActs s a
    obtain ⟨d, hd, hset⟩ := henabled hn he
    exact ⟨d, _, _, hd, hset, exec_fired_of_pending hp, by rw [State.fire_eq]⟩

end Sys2Proof.Machine
end
